-- ==== Sys2Proof/Word.lean ====
section
/-! DEFINITION. The value types of IDEA-CORE (spec/00_scope.md rules R8, R9, R10, R15): bytes, 16-bit
words, 64-bit blocks, 128-bit keys, 52-word schedules, the two inputs of a command, the direction flag.
Every value is unsigned (R10), so all of them are plain bit vectors. -/

namespace Sys2Proof

/-- One byte of a key, a block or a stream (R41, R42). -/
abbrev Byte := BitVec 8

/-- `Word`: a 16-bit unsigned value (R15). -/
abbrev Word := BitVec 16

/-- `Block`: a 64-bit value, four Words (R15). -/
abbrev Block := BitVec 64

/-- `Key`: a 128-bit value, eight Words (R15). -/
abbrev Key := BitVec 128

/-- `Schedule`: a sequence of exactly 52 Words, indices 0..51 (R15, R8). -/
abbrev Schedule := Vector Word 52

/-- The direction flag of a stream operation (R31; the document's "encrypt vs. decrypt"). -/
inductive Direction where
  | ENC
  | DEC
deriving DecidableEq, Repr

/-- A command as the host presents it: the pair `(cmd, din)` of rule R60. Neither half is stored by the
core (R23). -/
structure Command where
  cmd : BitVec 8
  din : BitVec 128
deriving DecidableEq, Repr

end Sys2Proof
end

