-- ==== Sys2Proof/Machine/Operands.lean ====
section
/-! DEFINITION. Operand forms and byte order: the fields of `din` (spec/30_encoding.md rules R61, R63),
the placing of operands in `din` (R67), and big-endian bytes in keys, blocks and words
(spec/20_memory.md rules R41, R42, R43; spec/00_scope.md rules R10, R11, R15). -/

namespace Sys2Proof.Machine

/-! ### The command word -/

/-- `rsv = cmd[7:4]` (R61). -/
def cmdRsv (c : Command) : BitVec 4 := c.cmd.extractLsb' 4 4

/-- `op = cmd[3:0]` (R61). -/
def cmdOp (c : Command) : BitVec 4 := c.cmd.extractLsb' 0 4

/-! ### Fields of din -/

/-- `din[31:16]`, the first factor of MUL (R63). -/
def dinWordHi (din : BitVec 128) : Word := din.extractLsb' 16 16

/-- `din[15:0]`, the second factor of MUL and the operand of ADDINV and MULINV (R63). -/
def dinWordLo (din : BitVec 128) : Word := din.extractLsb' 0 16

/-- `din[63:0]`, the block operand of XFORM_E, XFORM_D and BLOCK (R63). -/
def dinBlock (din : BitVec 128) : Block := din.extractLsb' 0 64

/-- `din[127:0]`, the key operand of KEYSCHED (R63). -/
def dinKey (din : BitVec 128) : Key := din

/-- How many low bits of `din` the command with opcode `op` reads: the widths of rule R63's operand table,
0 where it names no operand. -/
def usedBits (op : BitVec 4) : Nat :=
  match op with
  | 0x1#4 => 32
  | 0x2#4 => 16
  | 0x3#4 => 16
  | 0x4#4 => 128
  | 0x6#4 => 64
  | 0x7#4 => 64
  | 0xA#4 => 64
  | _ => 0

/-! ### Placing operands in din, every unused bit zero (R67) -/

/-- `a` in bits [31:16], `b` in bits [15:0], the rest zero. -/
def dinOfWords (a b : Word) : BitVec 128 := (a ++ b).setWidth 128

/-- `x` in bits [15:0], the rest zero. -/
def dinOfWord (x : Word) : BitVec 128 := x.setWidth 128

/-- A block in bits [63:0], the rest zero. -/
def dinOfBlock (blk : Block) : BitVec 128 := blk.setWidth 128

/-! ### Words of a block, bytes of blocks and keys (big-endian) -/

/-- The four Words of a Block: `x0 = Block[63:48]` down to `x3 = Block[15:0]` (R15, R162). Also the four
running words of the block transform. -/
structure Quad where
  x0 : Word
  x1 : Word
  x2 : Word
  x3 : Word
deriving DecidableEq, Repr

/-- Split a block into its four big-endian words (R15, R41). -/
def quadOfBlock (b : Block) : Quad :=
  { x0 := b.extractLsb' 48 16, x1 := b.extractLsb' 32 16,
    x2 := b.extractLsb' 16 16, x3 := b.extractLsb' 0 16 }

/-- `x0 ++ x1 ++ x2 ++ x3` (R11, R162). -/
def blockOfQuad (q : Quad) : Block := q.x0 ++ q.x1 ++ q.x2 ++ q.x3

/-- Bytes in stream order to one value, the first byte in the most significant place (R41, R42); more bytes
than the width holds would lose the first ones, fewer leave the top bits zero. -/
def ofBytesBE (w : Nat) (bs : List Byte) : BitVec w :=
  bs.foldl (fun acc b => (acc <<< 8) ||| b.setWidth w) 0#w

/-- A block from its 8 bytes B0..B7: B0 in bits [63:56] (R41). -/
def blockOfBytes (bs : List Byte) : Block := ofBytesBE 64 bs

/-- A key from its 16 bytes K0..K15: K0 in bits [127:120] (R42, R43). -/
def keyOfBytes (bs : List Byte) : Key := ofBytesBE 128 bs

/-- The 8 bytes of a block in stream order, B0 first (R41; DOUT's output byte 0 is DOUT[63:56], R64). -/
def bytesOfBlock (b : Block) : List Byte :=
  [b.extractLsb' 56 8, b.extractLsb' 48 8, b.extractLsb' 40 8, b.extractLsb' 32 8,
   b.extractLsb' 24 8, b.extractLsb' 16 8, b.extractLsb' 8 8, b.extractLsb' 0 8]

end Sys2Proof.Machine
end

