-- ==== Sys2Proof/Syntax.lean ====
section
/-! DEFINITION. The twelve commands of IDEA-CORE, one constructor per row of spec/opcode_table.json
(spec/30_encoding.md rule R62). A constructor's arguments are the operands rule R63 places in `din`, at
exactly the widths of that rule, so an operand out of range cannot be written. -/

namespace Sys2Proof

/-- A decoded command: rule R62 names the twelve, rule R63 their operands. -/
inductive Instr where
  /-- NOP, `cmd = 0x00` (R197). -/
  | nop
  /-- MUL, `cmd = 0x01`: `a = din[31:16]`, `b = din[15:0]` (R105). -/
  | mul (a b : Word)
  /-- ADDINV, `cmd = 0x02`: `x = din[15:0]` (R106). -/
  | addinv (x : Word)
  /-- MULINV, `cmd = 0x03`: `x = din[15:0]` (R107). -/
  | mulinv (x : Word)
  /-- KEYSCHED, `cmd = 0x04`: `k = din[127:0]` (R124). -/
  | keysched (k : Key)
  /-- REVSCHED, `cmd = 0x05` (R144). -/
  | revsched
  /-- XFORM_E, `cmd = 0x06`: `blk = din[63:0]` (R166). -/
  | xformE (blk : Block)
  /-- XFORM_D, `cmd = 0x07`: `blk = din[63:0]` (R167). -/
  | xformD (blk : Block)
  /-- START_E, `cmd = 0x08` (R190). -/
  | startE
  /-- START_D, `cmd = 0x09` (R191). -/
  | startD
  /-- BLOCK, `cmd = 0x0A`: `raw = din[63:0]` (R192, R193, R194). -/
  | block (raw : Block)
  /-- END, `cmd = 0x0B` (R195). -/
  | endChain
deriving DecidableEq, Repr

end Sys2Proof
end

