-- ==== Sys2Proof/WellFormed.lean ====
section
/-! DEFINITION. The checks on what the outside world hands the machine. A term of `Instr` needs no check of
its own: its operands have exactly the widths of spec/30_encoding.md rule R63, so every term is well
formed. What can be ill formed is a command word (R65), a `din` with stray bits where the assembler writes
zeros (R67), a written line whose literal does not fit its operand (R67, R68), and the answers of a byte
source (45_chaining.md rule R210: at most 8 bytes a read). -/

namespace Sys2Proof

/-- A legal command word: `cmd[7:4] = 0000` and `cmd[3:0]` not in 0xC..0xF (R65). -/
def Command.legal (c : Command) : Bool :=
  Machine.cmdRsv c == 0#4 && decide ((Machine.cmdOp c).toNat < 0xC)

/-- Every bit of `din` outside the command's operand fields is zero, as the assembler of rule R67 writes
it. The core itself accepts any value there (R63). -/
def Command.unusedZero (c : Command) : Bool :=
  c.din >>> Machine.usedBits (Machine.cmdOp c) == 0#128

/-- A written line of rule R67 or a pseudo-instruction of rule R68, its literals still unbounded naturals.
`dotCmd` is the directive `.cmd`, which writes any 8-bit word, legal or not. -/
inductive AsmLine where
  | nop
  | mul (a b : Nat)
  | addinv (x : Nat)
  | mulinv (x : Nat)
  | keysched (k : Nat)
  | revsched
  | xformE (blk : Nat)
  | xformD (blk : Nat)
  | startE
  | startD
  | block (raw : Nat)
  | endChain
  | dotCmd (w : Nat)
  | loadkeyE (k : Nat)
  | loadkeyD (k : Nat)
  | process (k : Nat) (dir : Direction) (s : List Byte)
deriving DecidableEq, Repr

/-- Every literal of a written line fits the operand rule R67 gives it. -/
def AsmLine.wf : AsmLine → Bool
  | .nop => true
  | .mul a b => decide (a < 2 ^ 16) && decide (b < 2 ^ 16)
  | .addinv x => decide (x < 2 ^ 16)
  | .mulinv x => decide (x < 2 ^ 16)
  | .keysched k => decide (k < 2 ^ 128)
  | .revsched => true
  | .xformE blk => decide (blk < 2 ^ 64)
  | .xformD blk => decide (blk < 2 ^ 64)
  | .startE => true
  | .startD => true
  | .block raw => decide (raw < 2 ^ 64)
  | .endChain => true
  | .dotCmd w => decide (w < 2 ^ 8)
  | .loadkeyE k => decide (k < 2 ^ 128)
  | .loadkeyD k => decide (k < 2 ^ 128)
  | .process k _ _ => decide (k < 2 ^ 128)

/-- The answers of a byte source are well formed: no read yields more than 8 bytes (R210, "next up to 8
bytes"). -/
def readsWf (reads : List (List Byte)) : Bool := reads.all fun chunk => decide (chunk.length ≤ 8)

end Sys2Proof
end

