-- ==== Sys2Proof/Decode.lean ====
section
/-! DEFINITION. Decoding a command (spec/30_encoding.md rules R61 to R66) and, after it, the encoder
(R62, R63, R67). Decoding is total on every `(cmd, din)`, looks at `cmd` alone to choose the row, never at
the state (R66), and rejects by name. -/

namespace Sys2Proof

/-- Why a command word is illegal: the two halves of rule R65. -/
inductive DecodeError where
  /-- `cmd[7:4] != 0000`. -/
  | reservedBits
  /-- `cmd[7:4] = 0000` and `cmd[3:0]` in 0xC..0xF. -/
  | reservedOpcode
deriving DecidableEq, Repr

/-- Which half of rule R65 an illegal word falls under. -/
def illegalReason (c : Command) : DecodeError :=
  if Machine.cmdRsv c = 0#4 then .reservedOpcode else .reservedBits

/-- The opcode map of rule R62 (for every legal row the mask is 0xFF and the match is the whole `cmd`) with
the operand fields of rule R63. -/
def decode (c : Command) : Except DecodeError Instr :=
  match c.cmd with
  | 0x00#8 => .ok .nop
  | 0x01#8 => .ok (.mul (Machine.dinWordHi c.din) (Machine.dinWordLo c.din))
  | 0x02#8 => .ok (.addinv (Machine.dinWordLo c.din))
  | 0x03#8 => .ok (.mulinv (Machine.dinWordLo c.din))
  | 0x04#8 => .ok (.keysched (Machine.dinKey c.din))
  | 0x05#8 => .ok .revsched
  | 0x06#8 => .ok (.xformE (Machine.dinBlock c.din))
  | 0x07#8 => .ok (.xformD (Machine.dinBlock c.din))
  | 0x08#8 => .ok .startE
  | 0x09#8 => .ok .startD
  | 0x0A#8 => .ok (.block (Machine.dinBlock c.din))
  | 0x0B#8 => .ok .endChain
  | _ => .error (illegalReason c)

/-! ### The encoder -/

/-- The command word of each row of rule R62. -/
def opcode : Instr → BitVec 8
  | .nop => 0x00#8
  | .mul _ _ => 0x01#8
  | .addinv _ => 0x02#8
  | .mulinv _ => 0x03#8
  | .keysched _ => 0x04#8
  | .revsched => 0x05#8
  | .xformE _ => 0x06#8
  | .xformD _ => 0x07#8
  | .startE => 0x08#8
  | .startD => 0x09#8
  | .block _ => 0x0A#8
  | .endChain => 0x0B#8

/-- The `din` the assembler writes: the operands where rule R63 places them, every unused bit zero
(R67). -/
def encodeDin : Instr → BitVec 128
  | .nop => 0#128
  | .mul a b => Machine.dinOfWords a b
  | .addinv x => Machine.dinOfWord x
  | .mulinv x => Machine.dinOfWord x
  | .keysched k => k
  | .revsched => 0#128
  | .xformE blk => Machine.dinOfBlock blk
  | .xformD blk => Machine.dinOfBlock blk
  | .startE => 0#128
  | .startD => 0#128
  | .block raw => Machine.dinOfBlock raw
  | .endChain => 0#128

/-- The command of an instruction (R62, R63, R67). -/
def encode (i : Instr) : Command := { cmd := opcode i, din := encodeDin i }

/-- The bits of `din` that rule R63 makes operand bits of an instruction, as a mask. -/
def operandMask : Instr → BitVec 128
  | .nop => 0#128
  | .mul _ _ => 0xFFFFFFFF#128
  | .addinv _ => 0xFFFF#128
  | .mulinv _ => 0xFFFF#128
  | .keysched _ => 0xFFFFFFFFFFFFFFFFFFFFFFFFFFFFFFFF#128
  | .revsched => 0#128
  | .xformE _ => 0xFFFFFFFFFFFFFFFF#128
  | .xformD _ => 0xFFFFFFFFFFFFFFFF#128
  | .startE => 0#128
  | .startD => 0#128
  | .block _ => 0xFFFFFFFFFFFFFFFF#128
  | .endChain => 0#128

/-! ### Words numbered as spec/opcode_table.json numbers them -/

/-- The command whose bits are `w`: bit 0 is the least significant bit of the first word, which is the
8-bit `cmd`, and the bits of the second word, the 128-bit `din`, count on from bit 8. Bits from `nbits` up
are zero (DESIGN CHOICE, safe: log entry 2). -/
def Command.ofTableWord (nbits w : Nat) : Command :=
  { cmd := BitVec.ofNat 8 (w % 2 ^ nbits), din := BitVec.ofNat 128 (w % 2 ^ nbits / 2 ^ 8) }

/-- What the decoder reads from a word of the opcode table. -/
def decodeTableWord (nbits w : Nat) : Option Instr :=
  match decode (Command.ofTableWord nbits w) with
  | .ok i => some i
  | .error _ => none

end Sys2Proof
end

