-- ==== Sys2Proof/Machine/State.lean ====
section
/-! DEFINITION. The state of one IDEA-CORE instance (spec/10_state.md rules R20 to R38), its reset value
(R35, R260), and the reasons a step could stop. -/

namespace Sys2Proof.Machine

/-- `STATUS.MODE`: the chaining direction in force (R28, R31). The code 11 is "never produced", so the
three-valued type of 93_implementation_defined.md item U3 is used (DEDUCED, safe: log entry 4). -/
inductive Mode where
  /-- 00: no chaining operation. -/
  | IDLE
  /-- 01: encrypt direction. -/
  | ENC
  /-- 10: decrypt direction. -/
  | DEC
deriving DecidableEq, Repr

/-- `STATUS.FAULT`: the fault codes of rule R231. The codes 6..15 are "never produced" (item U4; log
entry 4). -/
inductive FaultCode where
  /-- 0: no fault since reset. -/
  | NONE
  /-- 1: illegal command word (R237). -/
  | ILLEGAL_CMD
  /-- 2: the command needs EK and EKV = 0 (R233). -/
  | NO_EK
  /-- 3: the command needs DK and DKV = 0 (R234). -/
  | NO_DK
  /-- 4: BLOCK with MODE = IDLE (R235). -/
  | NO_CHAIN
  /-- 5: KEYSCHED with MODE != IDLE (R236). -/
  | KEY_IN_USE
deriving DecidableEq, Repr

/-- One thing the outside world does to an instance: it issues a command (R60) or drives the reset input,
which is separate from the command port (R260). -/
inductive Input where
  | command (c : Command)
  | reset
deriving DecidableEq, Repr

/-- The state vector `S = (EK, DK, FA, FB, DOUT, STATUS)` of rule R20, with STATUS held by its fields.

`EK` and `DK` are absent while their valid bits are 0, as rules R29, R30 and items U1, U2 of
93_implementation_defined.md require, so `STATUS.EKV` and `STATUS.DKV` are exactly their presence and are
stored once (Machine/Flags.lean reads them back as bits; DEDUCED, safe: log entry 3). `pending` is the
MODEL's own field, not the spec's: the inputs the outside world has lined up and not yet delivered (DESIGN
CHOICE, safe: log entry 1). -/
structure State where
  /-- Encryption subkey schedule register file, 52 words of 16 bits (R24); present exactly when EKV = 1. -/
  EK : Option Schedule
  /-- Decryption subkey schedule register file, 52 words of 16 bits (R25); present exactly when DKV = 1. -/
  DK : Option Schedule
  /-- feedbackA, 64 bits (R26). -/
  FA : Block
  /-- feedbackB, 64 bits (R26). -/
  FB : Block
  /-- Result register, 64 bits (R27). -/
  DOUT : Block
  /-- STATUS[3:2] (R31). -/
  MODE : Mode
  /-- STATUS[7:4] (R32). -/
  FAULT : FaultCode
  /-- The inputs not yet delivered, next one first (the model's own). -/
  pending : List Input
deriving DecidableEq, Repr

/-- Why a step stops the machine for good. NO constructor: the spec gives no such event. A refused command
is a fault CODE in STATUS and the machine goes on (R232, R245), and every command completes (R275). -/
inductive Fault where
deriving DecidableEq, Repr

/-- Why the model has no answer for a command. -/
inductive Refusal where
  /-- Raised by exec's arm of a command without a meaning, under its mnemonic; no arm is one today. Safe:
  the run stops where the hardware would go on. -/
  | notModelled (mnemonic : String)
deriving DecidableEq, Repr

/-- The state right after reset (R35, R260): no schedule, zero feedback and result, IDLE, no fault.
Nothing is lined up: after reset the core waits for the first command (R261). -/
def State.reset : State :=
  { EK := none, DK := none, FA := 0x0000000000000000#64, FB := 0x0000000000000000#64,
    DOUT := 0x0000000000000000#64, MODE := .IDLE, FAULT := .NONE, pending := [] }

end Sys2Proof.Machine
end

