-- ==== Sys2Proof/Machine/Flags.lean ====
section
/-! DEFINITION. The STATUS register as the host reads it (spec/10_state.md rules R28 to R32,
spec/60_exceptions.md rule R231). IDEA-CORE has no arithmetic flag: no operation sets a carry, an overflow
or any other flag (R108(e), R103). -/

namespace Sys2Proof.Machine

/-- `STATUS.EKV` (bit 0): EK holds a schedule (R29). -/
def State.EKV (s : State) : Bool := s.EK.isSome

/-- `STATUS.DKV` (bit 1): DK holds the reverse of the current EK (R30). -/
def State.DKV (s : State) : Bool := s.DK.isSome

/-- The code of `STATUS.MODE` (R31). -/
def Mode.bits : Mode → BitVec 2
  | .IDLE => 0b00#2
  | .ENC => 0b01#2
  | .DEC => 0b10#2

/-- The code of `STATUS.FAULT` (R231). -/
def FaultCode.code : FaultCode → BitVec 4
  | .NONE => 0#4
  | .ILLEGAL_CMD => 1#4
  | .NO_EK => 2#4
  | .NO_DK => 3#4
  | .NO_CHAIN => 4#4
  | .KEY_IN_USE => 5#4

/-- STATUS as one byte: FAULT in [7:4], MODE in [3:2], DKV in [1], EKV in [0] (R28). -/
def State.STATUS (s : State) : BitVec 8 :=
  s.FAULT.code ++ s.MODE.bits ++ BitVec.ofBool s.DKV ++ BitVec.ofBool s.EKV

/-- The mode a direction puts the core in (R31, R210). -/
def modeOf : Direction → Mode
  | .ENC => .ENC
  | .DEC => .DEC

/-- What the host can read, at any time and without effect: DOUT and STATUS, nothing else (R24, R27, R28,
R47). -/
structure HostView where
  dout : Block
  status : BitVec 8
deriving DecidableEq, Repr

/-- The host's read of the two readable registers (R47, R60). It is a function of the state, so it changes
nothing and repeats with the same answer. -/
def hostView (s : State) : HostView := { dout := s.DOUT, status := s.STATUS }

end Sys2Proof.Machine
end

