-- ==== Sys2Proof/Machine/Ops.lean ====
section
/-! DEFINITION. The named operations the meanings share: sequencing, taking a fault, guarded reads of the
schedules, writes of the result register, clearing and loading the feedback registers. -/

namespace Sys2Proof.Machine

/-- Go on with the next state, or stop as the first part stopped. -/
def andThen {α β : Type} (o : Host.Outcome α Fault Refusal) (k : α → Host.Outcome β Fault Refusal) :
    Host.Outcome β Fault Refusal :=
  match o with
  | .next a => k a
  | .fault r => .fault r
  | .refused r => .refused r

/-- Fault entry, `raise Fault(code)` (R232): FAULT takes the code if it was 0, nothing else changes, no
vector is taken, nothing is saved and no mode changes. There is no return from a fault: nothing was saved,
and later commands execute normally (R245). -/
def raise (code : FaultCode) (s : State) : Host.Outcome State Fault Refusal :=
  .next (if s.FAULT = .NONE then { s with FAULT := code } else s)

/-- A command that reads EK: NO_EK while EKV = 0, and then nothing is read (R29, R233). -/
def withEK (s : State) (use : Schedule → Host.Outcome State Fault Refusal) :
    Host.Outcome State Fault Refusal :=
  match s.EK with
  | none => raise .NO_EK s
  | some ek => use ek

/-- A command that reads DK: NO_DK while DKV = 0 (R30, R234). -/
def withDK (s : State) (use : Schedule → Host.Outcome State Fault Refusal) :
    Host.Outcome State Fault Refusal :=
  match s.DK with
  | none => raise .NO_DK s
  | some dk => use dk

/-- `DOUT <- zext_64(r)` (R27, R64). -/
def State.setDoutWord (s : State) (r : Word) : State := { s with DOUT := r.setWidth 64 }

/-- `DOUT <- out` (R27, R64). -/
def State.setDout (s : State) (out : Block) : State := { s with DOUT := out }

/-- `FA <- a`, `FB <- b` (R26). -/
def State.setFeedback (s : State) (a b : Block) : State := { s with FA := a, FB := b }

/-- START_E, START_D and END: both feedback registers to zero, MODE to `m` (R190, R191, R195). -/
def State.beginMode (s : State) (m : Mode) : State :=
  { s.setFeedback 0x0000000000000000#64 0x0000000000000000#64 with MODE := m }

end Sys2Proof.Machine
end

