-- ==== Sys2Proof/Machine/ModArith.lean ====
section
/-! DEFINITION. Modular arithmetic (spec/41_modular_arithmetic.md): the functions of rules R100 to R102,
with ADD16 and XOR16 (R103, R104) being `+` and `^^^` on Words, and the commands MUL, ADDINV, MULINV
(R105 to R107). Integer arithmetic is on unbounded naturals (R14). -/

namespace Sys2Proof.Machine

/-- `trunc16(v) = v mod 2^16` (R14). -/
def trunc16 (v : Nat) : Word := BitVec.ofNat 16 v

/-- The natural number a Word stands for in a product: 0 stands for 65536 (R100). -/
def factor (a : Word) : Nat := if a = 0#16 then 65536 else a.toNat

/-- Multiplication modulo 65537 (R100). -/
def mul (a b : Word) : Word := trunc16 (factor a * factor b % 65537)

/-- Additive inverse modulo 65536 (R101). -/
def addinv (x : Word) : Word := trunc16 ((65536 - x.toNat) % 65536)

/-- Binary exponentiation with an exponent of `n` one bits: `x^(2^n - 1) mod 65537`, by squaring and
multiplying once for each bit. The document asks for binary exponentiation; the method is not
architectural (R110). -/
def powAllOnes (x : Nat) : Nat → Nat
  | 0 => 1
  | n + 1 => powAllOnes x n * powAllOnes x n % 65537 * x % 65537

/-- Multiplicative inverse modulo 65537: `trunc16(x^65535 mod 65537)` with x taken as 0..65535, the
exponent 65535 being 16 one bits (R102). The inverse of 0 is 0. -/
def mulinv (x : Word) : Word := trunc16 (powAllOnes x.toNat 16)

/-- MUL (R105). -/
def execMul (a b : Word) (s : State) : Host.Outcome State Fault Refusal :=
  .next (s.setDoutWord (mul a b))

/-- ADDINV (R106). -/
def execAddinv (x : Word) (s : State) : Host.Outcome State Fault Refusal :=
  .next (s.setDoutWord (addinv x))

/-- MULINV (R107). -/
def execMulinv (x : Word) (s : State) : Host.Outcome State Fault Refusal :=
  .next (s.setDoutWord (mulinv x))

end Sys2Proof.Machine
end

