-- ==== Sys2Proof/Machine/BlockTransform.lean ====
section
/-! DEFINITION. The block transform (spec/44_block_transform.md): one round, the output transform, the whole
transform `T`, and the commands XFORM_E and XFORM_D. One function serves both directions (R4, R164); only
the schedule differs. -/

namespace Sys2Proof.Machine

/-- One round (R160). The temporaries are named as in the rule and exist only here (R34). -/
def roundStep (x : Quad) (k0 k1 k2 k3 k4 k5 : Word) : Quad :=
  let a := mul x.x0 k0
  let b := x.x1 + k1
  let c := x.x2 + k2
  let d := mul x.x3 k3
  let e := a ^^^ c
  let f := b ^^^ d
  let g := mul e k4
  let h := f + g
  let j := mul h k5
  let m := g + j
  { x0 := a ^^^ j, x1 := c ^^^ j, x2 := b ^^^ m, x3 := d ^^^ m }

/-- The output transform, which undoes the middle-word exchange of the last round (R161, reading (a) of
90_conflicts.md C3): output word 1 takes x2 and output word 2 takes x1. -/
def outputStep (x : Quad) (k0 k1 k2 k3 : Word) : Quad :=
  { x0 := mul x.x0 k0, x1 := x.x2 + k1, x2 := x.x1 + k2, x3 := mul x.x3 k3 }

/-- Round `r` uses row r of the schedule, `k0..k5 = Z[6r .. 6r+5]` (R33, R160). -/
def roundOf (Z : Schedule) (x : Quad) (r : Fin 8) : Quad :=
  roundStep x Z[6 * r.val] Z[6 * r.val + 1] Z[6 * r.val + 2] Z[6 * r.val + 3] Z[6 * r.val + 4]
    Z[6 * r.val + 5]

/-- The loop `for r in 0..7` of rule R162. -/
def roundOrder : List (Fin 8) := [0, 1, 2, 3, 4, 5, 6, 7]

/-- The eight rounds of `T`. -/
def eightRounds (x : Quad) (Z : Schedule) : Quad := roundOrder.foldl (roundOf Z) x

/-- The whole transform `T(blk, Z)` (R162): always 8 rounds and the output transform with row 8,
`Z[48 .. 51]`. -/
def transform (blk : Block) (Z : Schedule) : Block :=
  blockOfQuad (outputStep (eightRounds (quadOfBlock blk) Z) Z[48] Z[49] Z[50] Z[51])

/-- XFORM_E (R166): NO_EK while EKV = 0, else `DOUT <- T(blk, EK)`; any MODE, no chaining (D14). -/
def execXformE (blk : Block) (s : State) : Host.Outcome State Fault Refusal :=
  withEK s fun ek => .next (s.setDout (transform blk ek))

/-- XFORM_D (R167): NO_DK while DKV = 0, else `DOUT <- T(blk, DK)`; any MODE, no chaining (D14). -/
def execXformD (blk : Block) (s : State) : Host.Outcome State Fault Refusal :=
  withDK s fun dk => .next (s.setDout (transform blk dk))

end Sys2Proof.Machine
end

