-- ==== Sys2Proof/Machine/Chaining.lean ====
section
/-! DEFINITION. The chaining engine (spec/45_chaining.md): START_E, START_D, BLOCK, END, and NOP. The two
directions store different feedback, exactly as specified (R196). -/

namespace Sys2Proof.Machine

/-- NOP (R197): the state is unchanged. -/
def execNop (s : State) : Host.Outcome State Fault Refusal := .next s

/-- START_E (R190): zero feedback, MODE <- ENC; no schedule check (D9). -/
def execStartE (s : State) : Host.Outcome State Fault Refusal := .next (s.beginMode .ENC)

/-- START_D (R191): zero feedback, MODE <- DEC; no schedule check (D9). -/
def execStartD (s : State) : Host.Outcome State Fault Refusal := .next (s.beginMode .DEC)

/-- BLOCK in encrypt direction (R193): FA takes the masked block, FB the output. -/
def blockEnc (raw : Block) (s : State) : Host.Outcome State Fault Refusal :=
  withEK s fun ek =>
    let masked := raw ^^^ s.FA ^^^ s.FB
    let out := transform masked ek
    .next ((s.setDout out).setFeedback masked out)

/-- BLOCK in decrypt direction (R194): FA takes the raw ciphertext, FB the recovered plaintext. -/
def blockDec (raw : Block) (s : State) : Host.Outcome State Fault Refusal :=
  withDK s fun dk =>
    let out := transform raw dk ^^^ s.FA ^^^ s.FB
    .next ((s.setDout out).setFeedback raw out)

/-- BLOCK (R192): MODE selects the direction; NO_CHAIN in IDLE (R235), checked before any schedule
(R238). -/
def execBlock (raw : Block) (s : State) : Host.Outcome State Fault Refusal :=
  match s.MODE with
  | .IDLE => raise .NO_CHAIN s
  | .ENC => blockEnc raw s
  | .DEC => blockDec raw s

/-- END (R195): zero feedback, MODE <- IDLE; the schedules and DOUT stay (D18). -/
def execEndChain (s : State) : Host.Outcome State Fault Refusal := .next (s.beginMode .IDLE)

end Sys2Proof.Machine
end

