-- ==== Sys2Proof/Machine/KeySchedule.lean ====
section
/-! DEFINITION. The subkey scheduler (spec/42_key_schedule.md): `expand(k)` and the command KEYSCHED. -/

namespace Sys2Proof.Machine

/-- The 128-bit register of group `g`: the key rotated left by 25 bits `g` times (R122). The amount counts
modulo 128, since group 6 is rotated by 150 (DEDUCED, safe: log entry 6). -/
def keyRegister (k : Key) (g : Nat) : Key := k.rotateLeft (25 * g)

/-- Word `p` of a 128-bit register: bits `[127-16p : 112-16p]` (R15, R122). -/
def keyWord (v : Key) (p : Nat) : Word := v.extractLsb' (112 - 16 * p) 16

/-- `expand(k)` in the rotation formulation: `Z[8g + p]` is word p of the register of group g (R122), the
form rule R123 and item I2 of 93_implementation_defined.md allow beside the index formula R120, R121. -/
def expand (k : Key) : Schedule :=
  Vector.ofFn fun i => keyWord (keyRegister k (i.val / 8)) (i.val % 8)

/-- KEYSCHED (R124): KEY_IN_USE unless MODE is IDLE (R236), else EK takes `expand(k)` (EKV becomes 1) and
DK no longer holds a value (DKV becomes 0, R30). -/
def execKeysched (k : Key) (s : State) : Host.Outcome State Fault Refusal :=
  if s.MODE = .IDLE then .next { s with EK := some (expand k), DK := none }
  else raise .KEY_IN_USE s

end Sys2Proof.Machine
end

