-- ==== Sys2Proof/Machine/ReverseSchedule.lean ====
section
/-! DEFINITION. The reverse subkey scheduler (spec/43_reverse_schedule.md): `reverse(S)` and the command
REVSCHED. -/

namespace Sys2Proof.Machine

/-- `s` of rule R140: 1 for the first and the last row, else 0. -/
def rowSwap (i : Nat) : Nat := if i % 8 = 0 then 1 else 0

/-- It is at most 1, which keeps the indices below in range. -/
theorem rowSwap_le (i : Nat) : rowSwap i ≤ 1 := by
  unfold rowSwap; split <;> omega

/-- Word `n` of `reverse(S)`: row `i = n / 6`, column `n % 6` (R140). Columns 4 and 5 exist in rows 0..7
only, since `n < 52`. -/
def reverseWord (S : Schedule) (n : Fin 52) : Word :=
  let i := n.val / 6
  have hs := rowSwap_le i
  match n.val % 6 with
  | 0 => mulinv (S[6 * (8 - i) + 0]'(by omega))
  | 1 => addinv (S[6 * (8 - i) + 2 - rowSwap i]'(by omega))
  | 2 => addinv (S[6 * (8 - i) + 1 + rowSwap i]'(by omega))
  | 3 => mulinv (S[6 * (8 - i) + 3]'(by omega))
  | 4 => S[6 * (7 - i) + 4]'(by omega)
  | _ => S[6 * (7 - i) + 5]'(by omega)

/-- `reverse(S)` (R140, written out in R141). -/
def reverse (S : Schedule) : Schedule := Vector.ofFn (reverseWord S)

/-- REVSCHED (R144): NO_EK while EKV = 0, else DK takes `reverse(EK)` (DKV becomes 1). It reads no MODE
(decision D25). -/
def execRevsched (s : State) : Host.Outcome State Fault Refusal :=
  withEK s fun ek => .next { s with DK := some (reverse ek) }

end Sys2Proof.Machine
end

