-- ==== Sys2Proof/Machine/Dispatch.lean ====
section
/-! DEFINITION. The meaning of every command: one arm per constructor of `Instr`, each one direct call. -/

namespace Sys2Proof.Machine

def exec (i : Instr) (s : State) : Host.Outcome State Fault Refusal :=
  match i with
  | .nop => Sys2Proof.Machine.execNop s
  | .mul a b => Sys2Proof.Machine.execMul a b s
  | .addinv x => Sys2Proof.Machine.execAddinv x s
  | .mulinv x => Sys2Proof.Machine.execMulinv x s
  | .keysched k => Sys2Proof.Machine.execKeysched k s
  | .revsched => Sys2Proof.Machine.execRevsched s
  | .xformE blk => Sys2Proof.Machine.execXformE blk s
  | .xformD blk => Sys2Proof.Machine.execXformD blk s
  | .startE => Sys2Proof.Machine.execStartE s
  | .startD => Sys2Proof.Machine.execStartD s
  | .block raw => Sys2Proof.Machine.execBlock raw s
  | .endChain => Sys2Proof.Machine.execEndChain s

end Sys2Proof.Machine
end

