-- ==== Sys2Proof/Machine/Issue.lean ====
section
/-! DEFINITION. Issuing a command to an instance (spec/30_encoding.md rule R60), taking one input, and a run
of commands (spec/70_reset_and_hazards.md rule R276). -/

namespace Sys2Proof.Machine

/-- The core performs one command as one atomic step (R47, R60): an illegal word raises ILLEGAL_CMD before
any other check (R65, R237, R238), a legal one is executed. -/
def issue (c : Command) (s : State) : Host.Outcome State Fault Refusal :=
  match decode c with
  | .ok i => exec i s
  | .error _ => raise .ILLEGAL_CMD s

/-- The reset event (R260): every state element to its value of rule R35. What the outside world has lined
up for later is not the core's and stays (DESIGN CHOICE, safe: log entry 11). -/
def resetEvent (s : State) : Host.Outcome State Fault Refusal :=
  .next { State.reset with pending := s.pending }

/-- One input arrives. -/
def takeInput (e : Input) (s : State) : Host.Outcome State Fault Refusal :=
  match e with
  | .command c => issue c s
  | .reset => resetEvent s

/-- The result of a run of commands (R276): the last state, and the DOUT value after each command, as if the
host read DOUT after every one. R276 does not say whether it did, and a read the host skipped has no value
(item U10 of 93_implementation_defined.md): DESIGN CHOICE, unsafe: log entry 15. -/
structure Run where
  state : State
  douts : List Block
deriving DecidableEq, Repr

/-- A run: the commands one after the other, each wholly before the next (R50, R276). It records the value a
read of DOUT after each command gives (R47), whether or not the host makes that read (DESIGN CHOICE, unsafe:
log entry 15). -/
def runCommands : List Command → State → Host.Outcome Run Fault Refusal
  | [], s => .next { state := s, douts := [] }
  | c :: cs, s =>
    andThen (issue c s) fun t =>
      andThen (runCommands cs t) fun r => .next { state := r.state, douts := t.DOUT :: r.douts }

end Sys2Proof.Machine
end

