-- ==== Sys2Proof/Machine/Step.lean ====
section
/-! DEFINITION. One step of an instance: the next input lined up in `pending` is delivered, and is taken off
the list before the core sees it. With nothing lined up the core waits and holds its state (spec/
60_exceptions.md rule R251, 70_reset_and_hazards.md rule R261; DEDUCED, safe: log entry 5). -/

namespace Sys2Proof.Machine

/-- One step (R47, R50, R60, R260). -/
def step (s : State) : Host.Outcome State Fault Refusal :=
  match s.pending with
  | [] => .next s
  | e :: rest => takeInput e { s with pending := rest }

/-- `s` with the command of an opcode-table word lined up as the very next input, so that the next step
performs exactly it (DESIGN CHOICE, safe: log entry 2). -/
def State.withFetchWord (s : State) (nbits w : Nat) : State :=
  { s with pending := .command (Command.ofTableWord nbits w) :: s.pending }

end Sys2Proof.Machine
end

