-- ==== Sys2Proof/Config.lean ====
section
/-! DEFINITION. What the spec leaves to a platform. IDEA-CORE itself has no open parameter
(spec/00_scope.md rule R8): word width, block and key size, the 52 subkeys, 8 rounds, the 25-bit rotation
and both moduli are fixed and stand in the definitions that use them. The one open parameter is
`INSTANCES` (R8, R249; 92_eei_decisions.md D27), and the one value left free is the content of a sink after
a failed PROCESS (93_implementation_defined.md item I7). -/

namespace Sys2Proof.Config

/-- The number of IDEA-CORE instances a platform holds: open, so a constant without a body that no proof
can evaluate (R249, decision D27; DESIGN CHOICE, safe: log entry 12). -/
opaque INSTANCES : Nat

/-- What the sink of a PROCESS holds after a Failure, from the bytes written before it: any value, so a
function without a body (93_implementation_defined.md item I7, R242;
DEDUCED; that it depends on those bytes alone is a DESIGN CHOICE, unsafe: log entry 9). -/
opaque sinkAfterFailure : List Byte → List Byte

end Sys2Proof.Config
end

