-- ==== Sys2Proof/Machine/Process.lean ====
section
/-! DEFINITION. The host's stream protocol PROCESS (spec/45_chaining.md rules R210 to R214) with its failures
(spec/60_exceptions.md rules R240 to R243) and the cutting of a byte stream into padded blocks
(spec/20_memory.md rules R44, R45). PROCESS is no command: it is a host-side sequence of commands (R68). -/

namespace Sys2Proof.Machine

/-! ### Blocks from a byte stream -/

/-- The chunk extended on the right with zero bytes to 8 bytes (R44, R210). -/
def padChunk (chunk : List Byte) : List Byte := chunk ++ List.replicate (8 - chunk.length) 0x00#8

/-- `s ++ zeros(8n - L)` with `n = ceil(L / 8)` (R44). -/
def padStream (s : List Byte) : List Byte :=
  s ++ List.replicate (8 * ((s.length + 7) / 8) - s.length) 0x00#8

/-- The chunks a source that simply holds the bytes `s` yields: 8 at a time, fewer only at the end
(R210). -/
def chunksOf (s : List Byte) : List (List Byte) :=
  match s with
  | [] => []
  | b0 :: b1 :: b2 :: b3 :: b4 :: b5 :: b6 :: b7 :: rest =>
    [b0, b1, b2, b3, b4, b5, b6, b7] :: chunksOf rest
  | short => [short]

/-- The blocks of a stream: block i is bytes `8i .. 8i+7` of the padded stream (R44). -/
def streamBlocks (s : List Byte) : List Block :=
  (chunksOf s).map fun chunk => blockOfBytes (padChunk chunk)

/-! ### Sources, sinks and outcomes -/

/-- An opened byte source: the answers to the successive reads of "next up to 8 bytes" (R210). A read past
the list, or an empty answer, is the end of the stream, as is a read that fails (R242, 90_conflicts.md
C6; DESIGN CHOICE, unsafe: log entry 8). -/
structure Source where
  reads : List (List Byte)
deriving DecidableEq, Repr

/-- The source that holds the bytes `s` and yields them without a short read in the middle. -/
def Source.ofBytes (s : List Byte) : Source := { reads := chunksOf s }

/-- An opened byte sink: how many 8-byte writes succeed before one fails; `none` when none ever fails
(R242). -/
structure Sink where
  room : Option Nat
deriving DecidableEq, Repr

/-- The sink that never fails. -/
def Sink.unlimited : Sink := { room := none }

/-- Which of the two streams could not be opened (R241). -/
inductive StreamSide where
  | INPUT
  | OUTPUT
deriving DecidableEq, Repr

/-- The failures of PROCESS (R240 to R243). None of them is a fault of the core. -/
inductive Failure where
  | InvalidKeyLength
  | StreamOpenFailure (side : StreamSide)
  | WriteFailure
  | CoreBusy
deriving DecidableEq, Repr

/-- What PROCESS returns. -/
inductive ProcessResult where
  | output (bytes : List Byte)
  | failure (f : Failure)
deriving DecidableEq, Repr

/-- How a PROCESS ends: the core's state, the result, and the bytes in the sink. After a failure those are a
free value, since they are not valid output (R242; item I7 of 93_implementation_defined.md; DEDUCED, and
a DESIGN CHOICE in what it depends on: log entry 9). -/
structure Report where
  state : State
  result : ProcessResult
  written : List Byte
deriving DecidableEq, Repr

/-! ### The protocol -/

/-- The host issues an instruction as the command the assembler makes of it (R67, R210). -/
def issueInstr (i : Instr) (s : State) : Host.Outcome State Fault Refusal := issue (encode i) s

/-- END, then the result: every way out of the loop goes through END (R210, R242). -/
def finishWith (result : ProcessResult) (written : List Byte) (s : State) :
    Host.Outcome Report Fault Refusal :=
  andThen (issueInstr .endChain s) fun t => .next { state := t, result := result, written := written }

/-- The loop of rule R210 over the source's answers; `room` is what the sink still takes and `out` what has
been written. A chunk of fewer than 8 bytes is the last (D23). -/
def processLoop : List (List Byte) → Option Nat → List Byte → State → Host.Outcome Report Fault Refusal
  | [], _, out, s => finishWith (.output out) out s
  | chunk :: reads, room, out, s =>
    if chunk = [] then finishWith (.output out) out s
    else
      andThen (issueInstr (.block (blockOfBytes (padChunk chunk))) s) fun t =>
        if room = some 0 then finishWith (.failure .WriteFailure) (Config.sinkAfterFailure out) t
        else if chunk.length < 8 then
          finishWith (.output (out ++ bytesOfBlock t.DOUT)) (out ++ bytesOfBlock t.DOUT) t
        else processLoop reads (room.map (· - 1)) (out ++ bytesOfBlock t.DOUT) t

/-- REVSCHED in the decrypt direction only (R210). -/
def prepareDirection (dir : Direction) (s : State) : Host.Outcome State Fault Refusal :=
  match dir with
  | .ENC => .next s
  | .DEC => issueInstr .revsched s

/-- START_E or START_D (R210). -/
def startOf : Direction → Instr
  | .ENC => .startE
  | .DEC => .startD

/-- A failure found before any command was issued: the state is as it was (R240, R241, R243). -/
def failAtOnce (f : Failure) (s : State) : Host.Outcome Report Fault Refusal :=
  .next { state := s, result := .failure f, written := Config.sinkAfterFailure [] }

/-- The commands of a PROCESS that may start: KEYSCHED, REVSCHED for DEC, START, the blocks, END (R210). -/
def processFrom (k : Key) (dir : Direction) (src : Source) (sink : Sink) (s : State) :
    Host.Outcome Report Fault Refusal :=
  andThen (issueInstr (.keysched k) s) fun s1 =>
    andThen (prepareDirection dir s1) fun s2 =>
      andThen (issueInstr (startOf dir) s2) fun s3 => processLoop src.reads sink.room [] s3

/-- PROCESS (R210): the checks in the rule's order, then the command sequence. `src` and `sink` are `none`
when they cannot be opened. -/
def process (key : List Byte) (dir : Direction) (src : Option Source) (sink : Option Sink) (s : State) :
    Host.Outcome Report Fault Refusal :=
  if key.length ≠ 16 then failAtOnce .InvalidKeyLength s
  else
    match src, sink with
    | none, _ => failAtOnce (.StreamOpenFailure .INPUT) s
    | some _, none => failAtOnce (.StreamOpenFailure .OUTPUT) s
    | some src, some sink =>
      if s.MODE ≠ .IDLE then failAtOnce .CoreBusy s
      else processFrom (keyOfBytes key) dir src sink s

end Sys2Proof.Machine
end

