-- ==== Sys2Proof/Machine/Asm.lean ====
section
/-! DEFINITION. The assembler (spec/30_encoding.md rules R67, R68): written lines to commands, the
pseudo-instructions, the text of a line, and the listing of a command. Text is a list of characters. -/

namespace Sys2Proof.Machine

/-! ### Lines to commands -/

/-- The instruction a line stands for by itself; pseudo-instructions and `.cmd` stand for none. -/
def instrOfLine : AsmLine → Option Instr
  | .nop => some .nop
  | .mul a b => some (.mul (BitVec.ofNat 16 a) (BitVec.ofNat 16 b))
  | .addinv x => some (.addinv (BitVec.ofNat 16 x))
  | .mulinv x => some (.mulinv (BitVec.ofNat 16 x))
  | .keysched k => some (.keysched (BitVec.ofNat 128 k))
  | .revsched => some .revsched
  | .xformE blk => some (.xformE (BitVec.ofNat 64 blk))
  | .xformD blk => some (.xformD (BitVec.ofNat 64 blk))
  | .startE => some .startE
  | .startD => some .startD
  | .block raw => some (.block (BitVec.ofNat 64 raw))
  | .endChain => some .endChain
  | .dotCmd _ => none
  | .loadkeyE _ => none
  | .loadkeyD _ => none
  | .process _ _ _ => none

/-- The instructions of `PROCESS k, dir, s`: KEYSCHED, REVSCHED for DEC, START_E or START_D, one BLOCK for
each block of the padded stream, END (R68). -/
def processInstrs (k : Key) (dir : Direction) (s : List Byte) : List Instr :=
  [.keysched k] ++ (match dir with | .ENC => [] | .DEC => [.revsched]) ++ [startOf dir]
    ++ (streamBlocks s).map .block ++ [.endChain]

/-- The commands of a line whose literals fit (R67, R68). -/
def commandsOfLine (line : AsmLine) : List Command :=
  match line with
  | .dotCmd w => [{ cmd := BitVec.ofNat 8 w, din := 0#128 }]
  | .loadkeyE k => [encode (.keysched (BitVec.ofNat 128 k))]
  | .loadkeyD k => [encode (.keysched (BitVec.ofNat 128 k)), encode .revsched]
  | .process k dir s => (processInstrs (BitVec.ofNat 128 k) dir s).map encode
  | other => ((instrOfLine other).map encode).toList

/-- Assemble a line: refused when a literal does not fit its operand (R67). -/
def assemble (line : AsmLine) : Option (List Command) :=
  if line.wf then some (commandsOfLine line) else none

/-! ### Text -/

/-- The hexadecimal digit of a value below sixteen as listings write it, a capital letter for ten and up (R67;
DESIGN CHOICE, unsafe: log entry 10). -/
def hexDigitChar (d : Nat) : Char :=
  if d < 10 then Char.ofNat ('0'.toNat + d) else Char.ofNat ('A'.toNat + (d - 10))

/-- The value of a hexadecimal digit: the one a listing writes by that character, letters in either case
(R67; DESIGN CHOICE, unsafe: log entry 10). -/
def hexValue (c : Char) : Option Nat := (List.range 16).find? fun d => hexDigitChar d == c.toUpper

/-- Digits after the prefix and the first digit, most significant first. `_` may stand after any digit, repeated
or at the end too, and any number of leading zeros may be written, since only the value counts (R67; DESIGN
CHOICE, unsafe: log entry 10). -/
def hexDigits (acc : Nat) : List Char → Option Nat
  | [] => some acc
  | c :: cs =>
    if c = '_' then hexDigits acc cs
    else
      match hexValue c with
      | some d => hexDigits (16 * acc + d) cs
      | none => none

/-- A literal: the prefix `0x` in lower case and a digit, not `_`, right after it (R67; DESIGN CHOICE, unsafe:
log entry 10). -/
def hexLiteral : List Char → Option Nat
  | '0' :: 'x' :: d :: ds =>
    match hexValue d with
    | some v => hexDigits v ds
    | none => none
  | _ => none

/-- Without the blanks at either end. A blank is the space character alone, so a tab is none (R67 names no
blank; DESIGN CHOICE, unsafe: log entry 10). -/
def trimBlanks (cs : List Char) : List Char :=
  ((cs.dropWhile (· = ' ')).reverse.dropWhile (· = ' ')).reverse

/-- The operand texts: separated by commas (R67), spaces around each dropped, an empty text kept so that it is
refused as a literal (DESIGN CHOICE, unsafe: log entry 10). -/
def operandTexts (cs : List Char) : List (List Char) :=
  if trimBlanks cs = [] then [] else (cs.splitOn ',').map trimBlanks

/-- One line's mnemonic and operand values; `none` where an operand is no hexadecimal literal. -/
def lineOf (mnemonic : List Char) (ops : List Nat) : Option AsmLine :=
  match ops with
  | [] =>
    if mnemonic = ['N', 'O', 'P'] then some .nop
    else if mnemonic = ['R', 'E', 'V', 'S', 'C', 'H', 'E', 'D'] then some .revsched
    else if mnemonic = ['S', 'T', 'A', 'R', 'T', '_', 'E'] then some .startE
    else if mnemonic = ['S', 'T', 'A', 'R', 'T', '_', 'D'] then some .startD
    else if mnemonic = ['E', 'N', 'D'] then some .endChain
    else none
  | [x] =>
    if mnemonic = ['A', 'D', 'D', 'I', 'N', 'V'] then some (.addinv x)
    else if mnemonic = ['M', 'U', 'L', 'I', 'N', 'V'] then some (.mulinv x)
    else if mnemonic = ['K', 'E', 'Y', 'S', 'C', 'H', 'E', 'D'] then some (.keysched x)
    else if mnemonic = ['X', 'F', 'O', 'R', 'M', '_', 'E'] then some (.xformE x)
    else if mnemonic = ['X', 'F', 'O', 'R', 'M', '_', 'D'] then some (.xformD x)
    else if mnemonic = ['B', 'L', 'O', 'C', 'K'] then some (.block x)
    else if mnemonic = ['.', 'c', 'm', 'd'] then some (.dotCmd x)
    else if mnemonic = ['L', 'O', 'A', 'D', 'K', 'E', 'Y', '_', 'E'] then some (.loadkeyE x)
    else if mnemonic = ['L', 'O', 'A', 'D', 'K', 'E', 'Y', '_', 'D'] then some (.loadkeyD x)
    else none
  | [a, b] => if mnemonic = ['M', 'U', 'L'] then some (.mul a b) else none
  | _ => none

/-- What one line of text is. -/
inductive LineText where
  /-- Nothing but blanks and a comment. -/
  | empty
  /-- A written line. -/
  | line (l : AsmLine)
  /-- Not a line of rule R67 or R68. -/
  | unreadable
deriving DecidableEq, Repr

/-- Read one line of text: the comment from `;` on is dropped, then the mnemonic, letter for letter, up to the
first space, then the operands (R67). Only the space separates, so a line with a tab before its comment is
unreadable (DESIGN CHOICE, unsafe: log entry 10). -/
def readLine (text : List Char) : LineText :=
  let body := trimBlanks (text.takeWhile (· ≠ ';'))
  if body = [] then .empty
  else
    match (operandTexts (body.dropWhile (· ≠ ' '))).mapM hexLiteral with
    | none => .unreadable
    | some ops =>
      match lineOf (body.takeWhile (· ≠ ' ')) ops with
      | some l => .line l
      | none => .unreadable

/-- Assemble one line of text: no command for an empty line, `none` for a line that cannot be read or whose
literals do not fit. -/
def assembleText (text : List Char) : Option (List Command) :=
  match readLine text with
  | .empty => some []
  | .line l => assemble l
  | .unreadable => none

/-! ### Listings -/

/-- `n` hexadecimal digits of a value, most significant first. -/
def hexText : Nat → Nat → List Char
  | 0, _ => []
  | n + 1, v => hexText n (v / 16) ++ [hexDigitChar (v % 16)]

/-- A listing writes a command as `cmd=0xNN din=0x<32 hex digits>` (R67). -/
def listing (c : Command) : List Char :=
  ['c', 'm', 'd', '=', '0', 'x'] ++ hexText 2 c.cmd.toNat
    ++ [' ', 'd', 'i', 'n', '=', '0', 'x'] ++ hexText 32 c.din.toNat

end Sys2Proof.Machine
end

