-- ==== Sys2Proof/Machine/Platform.lean ====
section
/-! DEFINITION. A platform of several IDEA-CORE instances (spec/10_state.md rule R37, spec/20_memory.md rule
R51, spec/60_exceptions.md rule R249; decision D27): each has its own state, nothing is shared, and the
host names the one it issues a command to. -/

namespace Sys2Proof.Machine

/-- The states of `n` instances, each named by the host's own means, here an index (D27). -/
abbrev Platform (n : Nat) := Vector State n

/-- All instances start in the reset state (R249). -/
def Platform.reset (n : Nat) : Platform n := Vector.replicate n State.reset

/-- The host issues a command to instance `i`; the others do not take part (R37, R249). -/
def issueTo {n : Nat} (i : Fin n) (c : Command) (p : Platform n) :
    Host.Outcome (Platform n) Fault Refusal :=
  andThen (issue c p[i.val]) fun t => .next (p.set i.val t)

/-- The host drives the reset input of instance `i` (R260). -/
def resetTo {n : Nat} (i : Fin n) (p : Platform n) : Host.Outcome (Platform n) Fault Refusal :=
  andThen (resetEvent p[i.val]) fun t => .next (p.set i.val t)

/-- The platform the spec speaks of: `INSTANCES` instances, a number left open (R8, R249). -/
abbrev ThePlatform := Platform Config.INSTANCES

end Sys2Proof.Machine
end

