-- ==== Sys2Proof/Safety.lean ====
section
/-! DEFINITION. What a good state and a good run are, in the terms claims use: the invariants of
spec/10_state.md rule R36, faulted states (spec/60_exceptions.md rule R232), well-behaved runs
(spec/70_reset_and_hazards.md rule R276), and the sequences of rule R196. -/

namespace Sys2Proof.Machine

/-- A state to treat as faulted: `STATUS.FAULT != 0` (R232). -/
def State.faulted (s : State) : Bool := decide (s.FAULT ≠ .NONE)

/-- A run from `s` is well behaved when it completes and its last state is not faulted (R276). -/
def wellBehaved (cs : List Command) (s : State) : Prop :=
  ∃ r, runCommands cs s = .next r ∧ r.state.faulted = false

/-- `n` steps, stopping where a step stops (R50, R276). -/
def runSteps : Nat → State → Host.Outcome State Fault Refusal
  | 0, s => .next s
  | n + 1, s => andThen (step s) (runSteps n)

/-- R36(a): `DKV = 1` implies `EKV = 1` and `DK = reverse(EK)`. -/
def State.dkMatchesEk (s : State) : Prop :=
  ∀ dk, s.DK = some dk → ∃ ek, s.EK = some ek ∧ dk = reverse ek

/-- R36(c): `MODE = IDLE` implies `FA = FB = 0`. -/
def State.idleFeedbackZero (s : State) : Prop := s.MODE = .IDLE → s.FA = 0#64 ∧ s.FB = 0#64

/-- R36(d): `EKV = 1` implies `EK = expand(k)` for some key, whose words are `EK[0..7]` (R38). -/
def State.ekIsExpanded (s : State) : Prop :=
  ∀ ek, s.EK = some ek →
    ∃ k : Key, ek = expand k ∧ ∀ j : Fin 8, ek[j.val] = k.extractLsb' (112 - 16 * j.val) 16

/-- R36(b): the MODE bits of STATUS are not 11. -/
def State.modeLegal (s : State) : Prop := s.STATUS.extractLsb' 2 2 ≠ 0b11#2

/-- The invariants (a), (b), (c), (d) of rule R36 together. -/
structure State.Inv (s : State) : Prop where
  dkMatchesEk : s.dkMatchesEk
  modeLegal : s.modeLegal
  idleFeedbackZero : s.idleFeedbackZero
  ekIsExpanded : s.ekIsExpanded

/-- The differences E_1, E_2, … of rule R196, from `E`, and from the FA and FB the encrypt side holds before
the block: `E_(i+1) = E_i XOR M_i XOR p_i`, where `M_i = p_i XOR FA XOR FB` becomes FA and the ciphertext
becomes FB. -/
def divergence (E FA FB : Block) : List Block → List Block → List Block
  | p :: ps, c :: cs => E :: divergence (E ^^^ (p ^^^ FA ^^^ FB) ^^^ p) (p ^^^ FA ^^^ FB) c ps cs
  | _, _ => []

/-- The BLOCK commands for a list of blocks. -/
def blockCommands (bs : List Block) : List Command := bs.map fun b => encode (.block b)

/-- A core ready for the blocks of one stream: schedules of key `k` built, chaining just started in
direction `dir`; the rest of the state as in `s`. -/
def State.started (s : State) (k : Key) (dir : Direction) : State :=
  { s with EK := some (expand k), DK := some (reverse (expand k)), FA := 0#64, FB := 0#64, MODE := modeOf dir }

/-- Word `n` of a schedule, for claims that quantify over `n` in 0..51. -/
def wordAt (Z : Schedule) (n : Nat) : Word := Z.getD n 0#16

/-- PROCESS of a byte string from a source that holds it to a sink that never fails (R212 to R214). -/
def processBytes (key : List Byte) (dir : Direction) (bytes : List Byte) (s : State) :
    Host.Outcome Report Fault Refusal :=
  process key dir (some (Source.ofBytes bytes)) (some Sink.unlimited) s

end Sys2Proof.Machine
end

