-- ==== Sys2Proof/Certificates/Slice0/Obligations.lean ====
section
/-! DEFINITION. The statements for the provers, in the order of the spec's files. A statement of what a
command does gives the whole next state, so it is the command's frame as well: every field it does not name
is as it was. -/

open Sys2Proof Sys2Proof.Machine

/-! ### Encoding -/

/-- R62: the opcode map, each row with the operand fields of R63's table, and the reserved words. -/
def Obligations.OpcodeMapOfTheTwelveCommands : Prop :=
  ∀ d : BitVec 128,
    decode ⟨0x00#8, d⟩ = .ok .nop ∧
    decode ⟨0x01#8, d⟩ = .ok (.mul (d.extractLsb' 16 16) (d.extractLsb' 0 16)) ∧
    decode ⟨0x02#8, d⟩ = .ok (.addinv (d.extractLsb' 0 16)) ∧
    decode ⟨0x03#8, d⟩ = .ok (.mulinv (d.extractLsb' 0 16)) ∧
    decode ⟨0x04#8, d⟩ = .ok (.keysched d) ∧
    decode ⟨0x05#8, d⟩ = .ok .revsched ∧
    decode ⟨0x06#8, d⟩ = .ok (.xformE (d.extractLsb' 0 64)) ∧
    decode ⟨0x07#8, d⟩ = .ok (.xformD (d.extractLsb' 0 64)) ∧
    decode ⟨0x08#8, d⟩ = .ok .startE ∧
    decode ⟨0x09#8, d⟩ = .ok .startD ∧
    decode ⟨0x0A#8, d⟩ = .ok (.block (d.extractLsb' 0 64)) ∧
    decode ⟨0x0B#8, d⟩ = .ok .endChain ∧
    ∀ w : BitVec 8, 0x0C ≤ w.toNat → ∃ e, decode ⟨w, d⟩ = .error e

/-- R61, R62, R63, R67: decoding what the encoder writes gives the instruction back, and a command decodes
to an instruction exactly when its word is that instruction's and its operand bits are; every other bit of
`din` is free. -/
def Obligations.DecodeAndEncodeAgree : Prop :=
  (∀ i : Instr, decode (encode i) = .ok i) ∧
  ∀ (c : Command) (i : Instr),
    decode c = .ok i ↔ c.cmd = (encode i).cmd ∧ c.din &&& operandMask i = (encode i).din

/-- R65, R237, R197: an illegal word changes nothing but the fault code, whatever the state; a legal word runs its
instruction and never raises ILLEGAL_CMD; and 0x00 is the only word that does nothing in every state. -/
def Obligations.IllegalWordsChangeOnlyTheFaultCode : Prop :=
  (∀ (c : Command) (s : State),
    (c.cmd.extractLsb' 4 4 ≠ 0#4 ∨ 0xC ≤ (c.cmd.extractLsb' 0 4).toNat) →
      issue c s = .next (if s.FAULT = .NONE then { s with FAULT := .ILLEGAL_CMD } else s)) ∧
  (∀ (c : Command) (s : State),
    ¬ (c.cmd.extractLsb' 4 4 ≠ 0#4 ∨ 0xC ≤ (c.cmd.extractLsb' 0 4).toNat) →
      ∃ i t, decode c = .ok i ∧ issue c s = exec i s ∧ exec i s = .next t ∧
        (s.FAULT ≠ .ILLEGAL_CMD → t.FAULT ≠ .ILLEGAL_CMD)) ∧
  ∀ c : Command, (∀ s : State, issue c s = .next s) ↔ c.cmd = 0x00#8

/-- R63: two commands with one word whose `din` agree on the operand bits do the same; all other bits of
`din` are ignored. -/
def Obligations.UnusedDinBitsHaveNoEffect : Prop :=
  ∀ (c c' : Command) (s : State), c.cmd = c'.cmd →
    (∀ j, j < usedBits (cmdOp c) → c.din.getLsbD j = c'.din.getLsbD j) → issue c s = issue c' s

/-! ### Steps and runs -/

/-- R47, R50, R60: a step delivers the next input and runs the decoded command; an illegal word takes the
fault entry; with nothing lined up the core waits (R251). The list of inputs is the model's own (log entries
1 and 2). -/
def Obligations.StepRunsTheDecodedCommand : Prop :=
  (∀ (s : State) (c : Command) (rest : List Input) (i : Instr),
    s.pending = .command c :: rest → decode c = .ok i → step s = exec i { s with pending := rest }) ∧
  (∀ (s : State) (c : Command) (rest : List Input) (e : DecodeError),
    s.pending = .command c :: rest → decode c = .error e →
      step s = raise .ILLEGAL_CMD { s with pending := rest }) ∧
  (∀ (s : State) (nbits w : Nat) (i : Instr),
    decodeTableWord nbits w = some i → step (s.withFetchWord nbits w) = exec i s) ∧
  ∀ s : State, s.pending = [] → step s = .next s

/-- R275, R245: every command completes and no step ever stops the machine; a fault is a code in STATUS. -/
def Obligations.EveryStepCompletes : Prop :=
  (∀ s : State, ∃ t, step s = .next t) ∧ (∀ (i : Instr) (s : State), ∃ t, exec i s = .next t) ∧
    ∀ (c : Command) (s : State), ∃ t, issue c s = .next t

/-- R50, R276: delivering a list of commands step by step is the run of those commands in that order, each
seeing the state every earlier one left, with one DOUT value for each; later inputs stay lined up. The list of
inputs and the record of DOUT after every command are the model's choices (log entries 1 and 15). -/
def Obligations.PendingCommandsRunInOrder : Prop :=
  ∀ (cs : List Command) (rest : List Input) (s : State),
    ∃ r : Run, runCommands cs { s with pending := rest } = .next r ∧
      r.douts.length = cs.length ∧ r.state.pending = rest ∧
      runSteps cs.length { s with pending := cs.map .command ++ rest } = .next r.state

/-! ### State, STATUS and reset -/

/-- R35: the table of reset values, "no value" for the schedules being their absence. -/
def Obligations.ResetValuesOfTheTable : Prop :=
  State.reset.EK = none ∧ State.reset.DK = none ∧
  State.reset.FA = 0x0000000000000000#64 ∧ State.reset.FB = 0x0000000000000000#64 ∧
  State.reset.DOUT = 0x0000000000000000#64 ∧
  State.reset.EKV = false ∧ State.reset.DKV = false ∧
  State.reset.MODE = .IDLE ∧ State.reset.FAULT = .NONE ∧ State.reset.STATUS = 0x00#8

/-- R260: the reset input, whenever it comes, sets every state element of the spec to its reset value, and no
command ever clears STATUS.FAULT or EKV. That the inputs behind it stay lined up is the model's choice (log
entries 1 and 11). -/
def Obligations.OnlyResetClearsFaultAndEkv : Prop :=
  (∀ (s : State) (rest : List Input),
    s.pending = .reset :: rest → step s = .next { State.reset with pending := rest }) ∧
  ∀ (c : Command) (s t : State), issue c s = .next t →
    (s.FAULT ≠ .NONE → t.FAULT = s.FAULT) ∧ (s.EKV = true → t.EKV = true)

/-- R28, R31, R231: where the fields lie in the STATUS byte and how they are coded; MODE is never 11 and the
fault code never above 5. -/
def Obligations.StatusByteLayout : Prop :=
  ∀ s : State,
    s.STATUS.getLsbD 0 = s.EKV ∧ s.STATUS.getLsbD 1 = s.DKV ∧
    s.STATUS.extractLsb' 2 2 = (match s.MODE with | .IDLE => 0b00#2 | .ENC => 0b01#2 | .DEC => 0b10#2) ∧
    s.STATUS.extractLsb' 4 4 =
      (match s.FAULT with
        | .NONE => 0#4 | .ILLEGAL_CMD => 1#4 | .NO_EK => 2#4 | .NO_DK => 3#4 | .NO_CHAIN => 4#4
        | .KEY_IN_USE => 5#4) ∧
    s.STATUS.extractLsb' 2 2 ≠ 0b11#2 ∧ (s.STATUS.extractLsb' 4 4).toNat ≤ 5

/-- R24 to R28: which commands may change which register. -/
def Obligations.RegistersHaveOnlyTheirWriters : Prop :=
  ∀ (i : Instr) (s t : State), exec i s = .next t →
    (t.EK ≠ s.EK → ∃ k, i = .keysched k) ∧
    (t.DK ≠ s.DK → i = .revsched ∨ (∃ k, i = .keysched k) ∧ t.DK = none) ∧
    (t.FA ≠ s.FA ∨ t.FB ≠ s.FB → i = .startE ∨ i = .startD ∨ i = .endChain ∨ ∃ raw, i = .block raw) ∧
    (t.DOUT ≠ s.DOUT →
      (∃ a b, i = .mul a b) ∨ (∃ x, i = .addinv x) ∨ (∃ x, i = .mulinv x) ∨ (∃ b, i = .xformE b) ∨
        (∃ b, i = .xformD b) ∨ ∃ raw, i = .block raw) ∧
    (t.MODE ≠ s.MODE → i = .startE ∨ i = .startD ∨ i = .endChain) ∧
    t.pending = s.pending

/-! ### Faults -/

/-- R232, R235, R236, R237, R238: from a state without a fault, each code is raised exactly when its
rule says, in the order of R238, and then nothing else changes; from a state with one, a command
that would fault changes nothing at all. -/
def Obligations.FaultsAreRaisedAsTheTableSays : Prop :=
  (∀ (c : Command) (s t : State), s.FAULT = .NONE → issue c s = .next t →
    (t.FAULT = .ILLEGAL_CMD ↔ c.legal = false) ∧
    (t.FAULT = .KEY_IN_USE ↔ (∃ k, decode c = .ok (.keysched k)) ∧ s.MODE ≠ .IDLE) ∧
    (t.FAULT = .NO_CHAIN ↔ (∃ raw, decode c = .ok (.block raw)) ∧ s.MODE = .IDLE) ∧
    (t.FAULT = .NO_EK ↔ s.EKV = false ∧
      (decode c = .ok .revsched ∨ (∃ b, decode c = .ok (.xformE b)) ∨
        (∃ raw, decode c = .ok (.block raw)) ∧ s.MODE = .ENC)) ∧
    (t.FAULT = .NO_DK ↔ s.DKV = false ∧
      ((∃ b, decode c = .ok (.xformD b)) ∨ (∃ raw, decode c = .ok (.block raw)) ∧ s.MODE = .DEC)) ∧
    (t.FAULT ≠ .NONE → t = { s with FAULT := t.FAULT })) ∧
  ∀ (c : Command) (s t : State), s.FAULT ≠ .NONE →
    issue c { s with FAULT := .NONE } = .next t → t.FAULT ≠ .NONE → issue c s = .next s

/-- R245: what a command does to everything but STATUS.FAULT does not depend on the fault code, so after a
fault later commands execute normally. -/
def Obligations.CommandsRunNormallyAfterAFault : Prop :=
  ∀ (c : Command) (s : State) (f f' : FaultCode),
    ∃ t t', issue c { s with FAULT := f } = .next t ∧ issue c { s with FAULT := f' } = .next t' ∧
      { t' with FAULT := t.FAULT } = t

/-! ### Modular arithmetic -/

/-- R100: the product modulo 65537 with 0 standing for 65536, its range and its corner cases. -/
def Obligations.MultiplicationModulo65537 : Prop :=
  (∀ a b : Word,
    let A := if a = 0#16 then 65536 else a.toNat
    let B := if b = 0#16 then 65536 else b.toNat
    A * B ≤ 2 ^ 32 ∧ (mul a b).toNat = A * B % 65537 % 65536 ∧ 1 ≤ A * B % 65537 ∧ A * B % 65537 ≤ 65536 ∧
      (A * B % 65537 < 65536 → (mul a b).toNat = A * B % 65537)) ∧
  mul 0#16 0#16 = 1#16 ∧ mul 0#16 1#16 = 0#16 ∧ mul 1#16 0#16 = 0#16 ∧
  (∀ x : Word, 2 ≤ x.toNat → (mul 0#16 x).toNat = 65537 - x.toNat) ∧
  (∀ x : Word, mul 1#16 x = x) ∧
  mul 0xFFFF#16 0xFFFF#16 = 4#16 ∧ mul 0x1234#16 0x5678#16 = 0xFA3B#16

/-- R101: the additive inverse modulo 65536 and its corner cases. -/
def Obligations.AdditiveInverseModulo65536 : Prop :=
  (∀ x : Word, (addinv x).toNat = (65536 - x.toNat) % 65536) ∧
  (∀ x : Word, (x.toNat + (addinv x).toNat) % 65536 = 0) ∧
  addinv 0#16 = 0#16 ∧ addinv 0x8000#16 = 0x8000#16 ∧ addinv 1#16 = 0xFFFF#16 ∧
  addinv 0x1234#16 = 0xEDCC#16

/-- R102: the multiplicative inverse is `x^65535 mod 65537`, 0 for 0, the unique inverse in 1..65535
otherwise, and agrees with `mul` on every Word. -/
def Obligations.MultiplicativeInverseModulo65537 : Prop :=
  (∀ x : Word, (mulinv x).toNat = x.toNat ^ 65535 % 65537 % 65536) ∧
  mulinv 0#16 = 0#16 ∧
  (∀ x : Word, x ≠ 0#16 → ∀ y : Nat, 1 ≤ y → y ≤ 65535 →
    (x.toNat * y % 65537 = 1 ↔ y = (mulinv x).toNat)) ∧
  (∀ x : Word, x ≠ 0#16 → 1 ≤ (mulinv x).toNat) ∧
  (∀ x : Word, mul x (mulinv x) = 1#16) ∧
  mulinv 1#16 = 1#16 ∧ mulinv 2#16 = 0x8001#16 ∧ mulinv 0xFFFF#16 = 0x8000#16 ∧
  mulinv 0x8000#16 = 0xFFFF#16 ∧ mulinv 3#16 = 0x5556#16

/-- R108: `mul` is the multiplicative group modulo 65537 on the Words, `mulinv` its inverse and an involution
with fixed points 0 and 1, `addinv` an inverse for addition and an involution; none of the three commands
sets any flag. -/
def Obligations.LawsOfTheModularArithmetic : Prop :=
  (∀ a b : Word, mul a b = mul b a) ∧
  (∀ a b c : Word, mul (mul a b) c = mul a (mul b c)) ∧
  (∀ a : Word, mul 1#16 a = a ∧ mul a 1#16 = a) ∧
  (∀ a b : Word,
    let phi := fun w : Word => if w = 0#16 then 65536 else w.toNat
    phi (mul a b) = phi a * phi b % 65537 ∧ (phi a = phi b → a = b)) ∧
  (∀ n : Nat, 1 ≤ n → n ≤ 65536 → ∃ w : Word, (if w = 0#16 then 65536 else w.toNat) = n) ∧
  (∀ x : Word, mul x (mulinv x) = 1#16) ∧
  (∀ x : Word, mulinv (mulinv x) = x) ∧
  (∀ x : Word, mulinv x = x ↔ x = 0#16 ∨ x = 1#16) ∧
  (∀ x : Word, x + addinv x = 0#16 ∧ addinv (addinv x) = x) ∧
  (∀ a b : Word, (mul a b).toNat ≤ 65535) ∧
  ∀ (i : Instr) (s t : State), (∃ a b, i = .mul a b) ∨ (∃ x, i = .addinv x) ∨ (∃ x, i = .mulinv x) →
    exec i s = .next t → t.STATUS = s.STATUS

/-- R105: MUL. -/
def Obligations.MulCommand : Prop :=
  (∀ d : BitVec 128, decode ⟨0x01#8, d⟩ = .ok (.mul (d.extractLsb' 16 16) (d.extractLsb' 0 16))) ∧
  (∀ (a b : Word) (s : State),
    let A := if a = 0#16 then 65536 else a.toNat
    let B := if b = 0#16 then 65536 else b.toNat
    exec (.mul a b) s = .next { s with DOUT := BitVec.ofNat 64 (A * B % 65537 % 65536) }) ∧
  (∀ (a b : Word) (s : State), exec (.mul a b) s = exec (.mul b a) s) ∧
  (∀ s : State, exec (.mul 0#16 0#16) s = .next { s with DOUT := 0x0001#64 } ∧
    exec (.mul 0#16 1#16) s = .next { s with DOUT := 0x0000#64 } ∧
    exec (.mul 0x8000#16 0x0002#16) s = .next { s with DOUT := 0x0000#64 } ∧
    exec (.mul 0x0003#16 0x0007#16) s = .next { s with DOUT := 0x0000000000000015#64 })

/-- R106: ADDINV. -/
def Obligations.AddinvCommand : Prop :=
  (∀ d : BitVec 128, decode ⟨0x02#8, d⟩ = .ok (.addinv (d.extractLsb' 0 16))) ∧
  (∀ (x : Word) (s : State),
    exec (.addinv x) s = .next { s with DOUT := BitVec.ofNat 64 ((65536 - x.toNat) % 65536) }) ∧
  (∀ (x : Word) (s t : State), exec (.addinv x) s = .next t →
    (t.DOUT = x.setWidth 64 ↔ x = 0#16 ∨ x = 0x8000#16)) ∧
  ∀ s : State, exec (.addinv 0x0001#16) s = .next { s with DOUT := 0x000000000000FFFF#64 }

/-- R107: MULINV. -/
def Obligations.MulinvCommand : Prop :=
  (∀ d : BitVec 128, decode ⟨0x03#8, d⟩ = .ok (.mulinv (d.extractLsb' 0 16))) ∧
  (∀ (x : Word) (s : State),
    exec (.mulinv x) s = .next { s with DOUT := BitVec.ofNat 64 (x.toNat ^ 65535 % 65537 % 65536) }) ∧
  (∀ (x : Word) (s t : State), exec (.mulinv x) s = .next t →
    (t.DOUT = x.setWidth 64 ↔ x = 0#16 ∨ x = 1#16)) ∧
  ∀ s : State, exec (.mulinv 0x0002#16) s = .next { s with DOUT := 0x0000000000008001#64 }

/-! ### The key schedule -/

/-- R120, R121: the first eight words are the key's, and every later word comes from two earlier ones by the
index formula, with the usual lags 7 and 6 and the exceptional lags 15 and 14; the two fields do not
overlap. -/
def Obligations.KeyScheduleIndexFormula : Prop :=
  ∀ k : Key,
    (∀ j, j < 8 → wordAt (expand k) j = k.extractLsb' (112 - 16 * j) 16) ∧
    ∀ i, 8 ≤ i → i < 52 →
      let j1 := if (i + 1) % 8 = 0 then i - 15 else i - 7
      let j2 := if (i + 2) % 8 < 2 then i - 14 else i - 6
      wordAt (expand k) i = (wordAt (expand k) j1 <<< 9) ||| (wordAt (expand k) j2 >>> 7) ∧
      (wordAt (expand k) j1 <<< 9) &&& (wordAt (expand k) j2 >>> 7) = 0#16

/-- R122, R123: the rotation formulation in natural numbers, group g being the key rotated g times by 25
bits; and any schedule that follows the index formula is the one the rotation gives. -/
def Obligations.RotationAndIndexFormulaAgree : Prop :=
  (∀ (k : Key) (g p : Nat), p < 8 → 8 * g + p < 52 →
    (wordAt (expand k) (8 * g + p)).toNat =
      ((fun v : Nat => (v <<< 25 ||| v >>> (128 - 25)) % 2 ^ 128)^[g] k.toNat) >>> (112 - 16 * p) % 2 ^ 16) ∧
  ∀ (k : Key) (Z : Schedule),
    (∀ j, j < 8 → wordAt Z j = k.extractLsb' (112 - 16 * j) 16) →
    (∀ i, 8 ≤ i → i < 52 →
      wordAt Z i = (wordAt Z (if (i + 1) % 8 = 0 then i - 15 else i - 7) <<< 9) |||
        (wordAt Z (if (i + 2) % 8 < 2 then i - 14 else i - 6) >>> 7)) →
    Z = expand k

/-- R125, R38: EK after a KEYSCHED depends on the key alone, not on any earlier state, and its first eight
words are the key's. -/
def Obligations.EkDependsOnTheKeyAlone : Prop :=
  ∀ (k : Key) (s s' t t' : State), s.MODE = .IDLE → s'.MODE = .IDLE →
    issue ⟨0x04#8, k⟩ s = .next t → issue ⟨0x04#8, k⟩ s' = .next t' →
      t.EK = t'.EK ∧ ∃ ek, t.EK = some ek ∧ ∀ j, j < 8 → wordAt ek j = k.extractLsb' (112 - 16 * j) 16

/-- R124: KEYSCHED. -/
def Obligations.KeyschedCommand : Prop :=
  (∀ d : BitVec 128, decode ⟨0x04#8, d⟩ = .ok (.keysched d)) ∧
  (∀ (k : Key) (s : State), s.MODE = .IDLE →
    exec (.keysched k) s = .next { s with EK := some (expand k), DK := none }) ∧
  (∀ (k : Key) (s : State), s.MODE ≠ .IDLE →
    exec (.keysched k) s = .next (if s.FAULT = .NONE then { s with FAULT := .KEY_IN_USE } else s)) ∧
  (∀ (k : Key) (s t : State), s.MODE = .IDLE → exec (.keysched k) s = .next t →
    t.EKV = true ∧ t.DKV = false ∧ (s.EK = some (expand k) → t.EK = s.EK)) ∧
  expand 0#128 = Vector.replicate 52 0x0000#16 ∧
  expand (BitVec.allOnes 128) = Vector.replicate 52 0xFFFF#16 ∧
  ((expand 0x00010002000300040005000600070008#128).toList.drop 8).take 8 =
    [0x0400#16, 0x0600#16, 0x0800#16, 0x0A00#16, 0x0C00#16, 0x0E00#16, 0x1000#16, 0x0200#16]

/-! ### The reverse schedule -/

/-- R140, R141: the rule for rows 0..8, and the same written out for all 52 words. -/
def Obligations.ReverseScheduleRows : Prop :=
  (∀ (S : Schedule) (i : Nat), i ≤ 8 →
    let s := if i % 8 = 0 then 1 else 0
    wordAt (reverse S) (6 * i + 0) = mulinv (wordAt S (6 * (8 - i) + 0)) ∧
    wordAt (reverse S) (6 * i + 1) = addinv (wordAt S (6 * (8 - i) + 2 - s)) ∧
    wordAt (reverse S) (6 * i + 2) = addinv (wordAt S (6 * (8 - i) + 1 + s)) ∧
    wordAt (reverse S) (6 * i + 3) = mulinv (wordAt S (6 * (8 - i) + 3)) ∧
    (i ≠ 8 → wordAt (reverse S) (6 * i + 4) = wordAt S (6 * (7 - i) + 4) ∧
      wordAt (reverse S) (6 * i + 5) = wordAt S (6 * (7 - i) + 5))) ∧
  ∀ E : Schedule,
    (reverse E).toList =
      [mulinv E[48], addinv E[49], addinv E[50], mulinv E[51], E[46], E[47]] ++
      [mulinv E[42], addinv E[44], addinv E[43], mulinv E[45], E[40], E[41]] ++
      [mulinv E[36], addinv E[38], addinv E[37], mulinv E[39], E[34], E[35]] ++
      [mulinv E[30], addinv E[32], addinv E[31], mulinv E[33], E[28], E[29]] ++
      [mulinv E[24], addinv E[26], addinv E[25], mulinv E[27], E[22], E[23]] ++
      [mulinv E[18], addinv E[20], addinv E[19], mulinv E[21], E[16], E[17]] ++
      [mulinv E[12], addinv E[14], addinv E[13], mulinv E[15], E[10], E[11]] ++
      [mulinv E[6], addinv E[8], addinv E[7], mulinv E[9], E[4], E[5]] ++
      [mulinv E[0], addinv E[1], addinv E[2], mulinv E[3]]

/-- R143: reversing twice gives the schedule back, for every schedule. -/
def Obligations.ReverseIsAnInvolution : Prop := ∀ S : Schedule, reverse (reverse S) = S

/-- R144: REVSCHED, in any MODE. -/
def Obligations.RevschedCommand : Prop :=
  (∀ d : BitVec 128, decode ⟨0x05#8, d⟩ = .ok .revsched) ∧
  (∀ (s : State) (ek : Schedule), s.EK = some ek →
    exec .revsched s = .next { s with DK := some (reverse ek) }) ∧
  (∀ s : State, s.EKV = false →
    exec .revsched s = .next (if s.FAULT = .NONE then { s with FAULT := .NO_EK } else s)) ∧
  (∀ s t : State, s.EKV = true → exec .revsched s = .next t →
    t.DKV = true ∧ exec .revsched t = .next t) ∧
  reverse (Vector.replicate 52 0x0000#16) = Vector.replicate 52 0x0000#16 ∧
  (∀ r, r < 8 → ((reverse (Vector.replicate 52 0xFFFF#16)).toList.drop (6 * r)).take 6 =
    [0x8000#16, 0x0001#16, 0x0001#16, 0x8000#16, 0xFFFF#16, 0xFFFF#16]) ∧
  (reverse (Vector.replicate 52 0xFFFF#16)).toList.drop 48 =
    [0x8000#16, 0x0001#16, 0x0001#16, 0x8000#16] ∧
  (reverse (expand 0x00010002000300040005000600070008#128)).toList.take 6 =
    [0xFE01#16, 0xFF40#16, 0xFF00#16, 0x659A#16, 0xC000#16, 0xE001#16]

/-! ### The block transform -/

/-- R142: the defining correctness property of the cipher core, in both orders. -/
def Obligations.DecryptionUndoesEncryption : Prop :=
  ∀ (k : Key) (x : Block),
    transform (transform x (expand k)) (reverse (expand k)) = x ∧
    transform (transform x (reverse (expand k))) (expand k) = x

/-- R163: for every fixed schedule, not only an expanded key's, the transform is a permutation of the blocks
whose inverse is the transform under the reversed schedule. -/
def Obligations.TransformIsAPermutation : Prop :=
  ∀ Z : Schedule,
    Function.Bijective (fun x : Block => transform x Z) ∧
    ∀ x : Block, transform (transform x Z) (reverse Z) = x

/-- R166: XFORM_E, in any MODE. -/
def Obligations.XformECommand : Prop :=
  (∀ d : BitVec 128, decode ⟨0x06#8, d⟩ = .ok (.xformE (d.extractLsb' 0 64))) ∧
  (∀ (blk : Block) (s : State) (ek : Schedule), s.EK = some ek →
    exec (.xformE blk) s = .next { s with DOUT := transform blk ek }) ∧
  (∀ (blk : Block) (s : State), s.EKV = false →
    exec (.xformE blk) s = .next (if s.FAULT = .NONE then { s with FAULT := .NO_EK } else s)) ∧
  (∀ (blk : Block) (s t u : State), s.EKV = true → s.MODE = .ENC → s.FA = 0#64 → s.FB = 0#64 →
    exec (.xformE blk) s = .next t → exec (.block blk) s = .next u → u.DOUT = t.DOUT) ∧
  transform 0x0000000000000000#64 (expand 0#128) = 0x0001000100000000#64 ∧
  transform 0xFFFFFFFFFFFFFFFF#64 (expand (BitVec.allOnes 128)) = 0xCD1AB2C1211041FB#64 ∧
  transform 0x0000000100020003#64 (expand 0x00010002000300040005000600070008#128) = 0x11FBED2B01986DE5#64

/-- R167: XFORM_D, in any MODE. -/
def Obligations.XformDCommand : Prop :=
  (∀ d : BitVec 128, decode ⟨0x07#8, d⟩ = .ok (.xformD (d.extractLsb' 0 64))) ∧
  (∀ (blk : Block) (s : State) (dk : Schedule), s.DK = some dk →
    exec (.xformD blk) s = .next { s with DOUT := transform blk dk }) ∧
  (∀ (blk : Block) (s : State), s.DKV = false →
    exec (.xformD blk) s = .next (if s.FAULT = .NONE then { s with FAULT := .NO_DK } else s)) ∧
  (∀ (k : Key) (s t : State), exec (.keysched k) s = .next t → s.MODE = .IDLE → t.DKV = false) ∧
  (∀ (x : Block) (s t u : State), s.Inv → s.DKV = true →
    exec (.xformE x) s = .next t → exec (.xformD t.DOUT) t = .next u → u.DOUT = x) ∧
  (∀ x : Block, transform x (reverse (expand 0#128)) = transform x (expand 0#128)) ∧
  transform 0x11FBED2B01986DE5#64 (reverse (expand 0x00010002000300040005000600070008#128)) =
    0x0000000100020003#64

/-! ### Chaining -/

/-- R190, R191, R195: START_E, START_D and END, and NOP beside them; END changes nothing in an IDLE state of the
invariant. -/
def Obligations.StartEndAndNopCommands : Prop :=
  (∀ d : BitVec 128, decode ⟨0x08#8, d⟩ = .ok .startE ∧ decode ⟨0x09#8, d⟩ = .ok .startD ∧
    decode ⟨0x0B#8, d⟩ = .ok .endChain ∧ decode ⟨0x00#8, d⟩ = .ok .nop) ∧
  (∀ s : State, exec .startE s = .next { s with
    FA := 0x0000000000000000#64, FB := 0x0000000000000000#64, MODE := .ENC }) ∧
  (∀ s : State, exec .startD s = .next { s with
    FA := 0x0000000000000000#64, FB := 0x0000000000000000#64, MODE := .DEC }) ∧
  (∀ s : State, exec .endChain s = .next { s with
    FA := 0x0000000000000000#64, FB := 0x0000000000000000#64, MODE := .IDLE }) ∧
  (∀ s : State, s.Inv → s.MODE = .IDLE → exec .endChain s = .next s) ∧
  (∀ s : State, exec .nop s = .next s)

/-- R192: BLOCK dispatches on MODE and raises NO_CHAIN in IDLE, whatever the schedules. -/
def Obligations.BlockCommandDispatch : Prop :=
  (∀ d : BitVec 128, decode ⟨0x0A#8, d⟩ = .ok (.block (d.extractLsb' 0 64))) ∧
  (∀ (raw : Block) (s : State), s.MODE = .IDLE →
    exec (.block raw) s = .next (if s.FAULT = .NONE then { s with FAULT := .NO_CHAIN } else s)) ∧
  (∀ (raw : Block) (s : State), s.MODE = .ENC → exec (.block raw) s = blockEnc raw s) ∧
  (∀ (raw : Block) (s : State), s.MODE = .DEC → exec (.block raw) s = blockDec raw s) ∧
  ∀ (raw : Block) (s t : State), exec (.block raw) s = .next t → t.MODE = s.MODE

/-- R193: BLOCK in encrypt direction. -/
def Obligations.BlockCommandEncrypt : Prop :=
  (∀ (raw : Block) (s : State) (ek : Schedule), s.MODE = .ENC → s.EK = some ek →
    exec (.block raw) s = .next { s with
      DOUT := transform (raw ^^^ s.FA ^^^ s.FB) ek,
      FA := raw ^^^ s.FA ^^^ s.FB,
      FB := transform (raw ^^^ s.FA ^^^ s.FB) ek }) ∧
  (∀ (raw : Block) (s : State), s.MODE = .ENC → s.EKV = false →
    exec (.block raw) s = .next (if s.FAULT = .NONE then { s with FAULT := .NO_EK } else s)) ∧
  (∀ (raw : Block) (s : State) (ek : Schedule), s.EK = some ek →
    exec (.block raw) (s.beginMode .ENC) = .next { s.beginMode .ENC with
      DOUT := transform raw ek, FA := raw, FB := transform raw ek }) ∧
  (∀ (s t : State) (ek : Schedule), s.MODE = .ENC → s.EK = some ek →
    exec (.block (s.FA ^^^ s.FB)) s = .next t → t.FA = 0#64 ∧ t.DOUT = transform 0#64 ek) ∧
  ∀ s : State, s.EK = some (expand 0x00010002000300040005000600070008#128) →
    exec (.block 0x0000000100020003#64) (s.beginMode .ENC) = .next { s.beginMode .ENC with
      DOUT := 0x11FBED2B01986DE5#64, FA := 0x0000000100020003#64, FB := 0x11FBED2B01986DE5#64 }

/-- R194: BLOCK in decrypt direction. -/
def Obligations.BlockCommandDecrypt : Prop :=
  (∀ (raw : Block) (s : State) (dk : Schedule), s.MODE = .DEC → s.DK = some dk →
    exec (.block raw) s = .next { s with
      DOUT := transform raw dk ^^^ s.FA ^^^ s.FB,
      FA := raw,
      FB := transform raw dk ^^^ s.FA ^^^ s.FB }) ∧
  (∀ (raw : Block) (s : State), s.MODE = .DEC → s.DKV = false →
    exec (.block raw) s = .next (if s.FAULT = .NONE then { s with FAULT := .NO_DK } else s)) ∧
  (∀ (raw : Block) (s : State) (dk : Schedule), s.DK = some dk →
    exec (.block raw) (s.beginMode .DEC) = .next { s.beginMode .DEC with
      DOUT := transform raw dk, FA := raw, FB := transform raw dk }) ∧
  ∀ s : State, s.DK = some (reverse (expand 0x00010002000300040005000600070008#128)) →
    exec (.block 0x11FBED2B01986DE5#64) (s.beginMode .DEC) = .next { s.beginMode .DEC with
      DOUT := 0x0000000100020003#64, FA := 0x11FBED2B01986DE5#64, FB := 0x0000000100020003#64 }

/-- R36: the reset state meets the four invariants. -/
def Obligations.ResetMeetsTheInvariants : Prop := State.reset.Inv

/-- R36: every step from a state that meets the four invariants gives one that does, whatever the input, and
so every state reached from reset under any inputs meets them. -/
def Obligations.EveryStepKeepsTheInvariants : Prop :=
  (∀ s t : State, s.Inv → step s = .next t → t.Inv) ∧
  ∀ (inputs : List Input) (n : Nat) (t : State),
    runSteps n { State.reset with pending := inputs } = .next t → t.Inv

/-- R196: encrypting any list of blocks and decrypting the result gives each block XORed with the E_i of the
rule; the first two blocks come back, the third differs by `p1 XOR C1`, which need not be zero; after one block
the two sides hold different registers with the same XOR. -/
def Obligations.FeedbackAsymmetryOfStreams : Prop :=
  (∀ (k : Key) (ps : List Block) (s : State),
    ∃ rE rD : Run, runCommands (blockCommands ps) (s.started k .ENC) = .next rE ∧
      runCommands (blockCommands rE.douts) (s.started k .DEC) = .next rD ∧
      rE.douts.length = ps.length ∧
      rD.douts = List.zipWith (· ^^^ ·) ps (divergence 0#64 0#64 0#64 ps rE.douts) ∧
      rD.douts.take 2 = ps.take 2 ∧
      ∀ p1 p2 p3 c1 : Block, ps.take 3 = [p1, p2, p3] → rE.douts.head? = some c1 →
        rD.douts[2]? = some (p3 ^^^ (p1 ^^^ c1))) ∧
  (∃ (k : Key) (ps : List Block), ps.length = 3 ∧ ∀ (s : State) (rE rD : Run),
    runCommands (blockCommands ps) (s.started k .ENC) = .next rE →
    runCommands (blockCommands rE.douts) (s.started k .DEC) = .next rD → rD.douts[2]? ≠ ps[2]?) ∧
  ∀ (k : Key) (p : Block) (s t u : State),
    exec (.block p) (s.started k .ENC) = .next t → exec (.block t.DOUT) (s.started k .DEC) = .next u →
      t.FA = p ∧ t.FB = t.DOUT ∧ u.FA = t.DOUT ∧ u.FB = p ∧ t.FA ^^^ t.FB = u.FA ^^^ u.FB

/-- R198: during a chaining operation MUL, ADDINV, MULINV, XFORM_E, XFORM_D, REVSCHED and NOP leave the
chain, EK and MODE alone, and the next BLOCK does what it would have done without them (where it does not
fault for want of a schedule); KEYSCHED faults with KEY_IN_USE. -/
def Obligations.OtherCommandsLeaveTheChainAlone : Prop :=
  (∀ (i : Instr) (s t : State), s.MODE ≠ .IDLE →
    (match i with
      | .nop => True | .mul _ _ => True | .addinv _ => True | .mulinv _ => True | .keysched _ => False
      | .revsched => True | .xformE _ => True | .xformD _ => True | .startE => False | .startD => False
      | .block _ => False | .endChain => False) →
    exec i s = .next t →
      t.FA = s.FA ∧ t.FB = s.FB ∧ t.MODE = s.MODE ∧ t.EK = s.EK ∧
      ∀ (raw : Block) (u v : State), s.Inv → (s.MODE = .ENC → s.EKV = true) →
        (s.MODE = .DEC → s.DKV = true) →
        exec (.block raw) t = .next u → exec (.block raw) s = .next v →
          u.FA = v.FA ∧ u.FB = v.FB ∧ u.DOUT = v.DOUT) ∧
  ∀ (k : Key) (s : State), s.MODE ≠ .IDLE →
    exec (.keysched k) s = .next (if s.FAULT = .NONE then { s with FAULT := .KEY_IN_USE } else s)

/-- R53, R271: after a KEYSCHED the old decryption schedule is never used: XFORM_D and a decrypt-direction
BLOCK raise NO_DK, and the one command that makes DK valid again is REVSCHED, from the EK then in force. -/
def Obligations.StaleDecryptionScheduleIsRefused : Prop :=
  (∀ (k : Key) (s t : State), s.MODE = .IDLE → exec (.keysched k) s = .next t →
    t.DKV = false ∧ (∀ blk, exec (.xformD blk) t = raise .NO_DK t) ∧
    ∀ raw, exec (.block raw) (t.beginMode .DEC) = raise .NO_DK (t.beginMode .DEC)) ∧
  ∀ (c : Command) (s t : State), issue c s = .next t → s.DKV = false → t.DKV = true →
    decode c = .ok .revsched ∧ ∃ ek, s.EK = some ek ∧ t.DK = some (reverse ek)

/-! ### Bytes, streams and PROCESS -/

/-- R41, R42: blocks and keys are big-endian. -/
def Obligations.BlocksAndKeysAreBigEndian : Prop :=
  (∀ b0 b1 b2 b3 b4 b5 b6 b7 : Byte,
    let blk := blockOfBytes [b0, b1, b2, b3, b4, b5, b6, b7]
    blk = b0 ++ b1 ++ b2 ++ b3 ++ b4 ++ b5 ++ b6 ++ b7 ∧
    quadOfBlock blk = ⟨b0 ++ b1, b2 ++ b3, b4 ++ b5, b6 ++ b7⟩ ∧
    bytesOfBlock blk = [b0, b1, b2, b3, b4, b5, b6, b7]) ∧
  (∀ blk : Block, blockOfQuad (quadOfBlock blk) = blk ∧ blockOfBytes (bytesOfBlock blk) = blk) ∧
  ∀ k0 k1 k2 k3 k4 k5 k6 k7 k8 k9 k10 k11 k12 k13 k14 k15 : Byte,
    let k := keyOfBytes [k0, k1, k2, k3, k4, k5, k6, k7, k8, k9, k10, k11, k12, k13, k14, k15]
    k = k0 ++ k1 ++ k2 ++ k3 ++ k4 ++ k5 ++ k6 ++ k7 ++ k8 ++ k9 ++ k10 ++ k11 ++ k12 ++ k13 ++ k14 ++ k15 ∧
    ((expand k).toList.take 8 =
      [k0 ++ k1, k2 ++ k3, k4 ++ k5, k6 ++ k7, k8 ++ k9, k10 ++ k11, k12 ++ k13, k14 ++ k15])

/-- R44: a stream of L bytes is cut into `ceil(L / 8)` blocks, block i being bytes `8i .. 8i+7` of the stream
padded with zeros on the right. -/
def Obligations.StreamIsCutIntoPaddedBlocks : Prop :=
  ∀ s : List Byte,
    (streamBlocks s).length = (s.length + 7) / 8 ∧
    (padStream s).length = 8 * ((s.length + 7) / 8) ∧
    (padStream s).take s.length = s ∧ (∀ b ∈ (padStream s).drop s.length, b = 0x00#8) ∧
    ∀ i, i < (s.length + 7) / 8 →
      (streamBlocks s)[i]? = some (blockOfBytes (((padStream s).drop (8 * i)).take 8))

/-- R45: two streams with the same padded form cannot be told apart, by the output or by the state, whatever
the sink does. The reports are equal whole: after a Failure, when the spec leaves the sink's bytes at any value
(item I7), they are equal because the model makes those bytes depend on the bytes written before alone, which is
the model's choice (log entry 9). -/
def Obligations.PaddingIsNotRecorded : Prop :=
  ∀ (key : List Byte) (dir : Direction) (sink : Option Sink) (s : State) (bytes : List Byte) (j : Nat),
    bytes.length + j ≤ 8 * ((bytes.length + 7) / 8) →
      process key dir (some (Source.ofBytes (bytes ++ List.replicate j 0x00#8))) sink s =
        process key dir (some (Source.ofBytes bytes)) sink s

/-- R240, R241, R243: the failures found before any command is issued, in the order of R210; the state is
unchanged. What the sink then holds is left free (item I7, log entry 9). -/
def Obligations.ProcessFailsBeforeAnyCommand : Prop :=
  ∀ (key : List Byte) (dir : Direction) (s : State),
    (key.length ≠ 16 → ∀ src sink, process key dir src sink s =
      .next { state := s, result := .failure .InvalidKeyLength, written := Config.sinkAfterFailure [] }) ∧
    (key.length = 16 →
      (∀ sink, process key dir none sink s =
        .next { state := s, result := .failure (.StreamOpenFailure .INPUT), written := Config.sinkAfterFailure [] }) ∧
      (∀ src, process key dir (some src) none s =
        .next { state := s, result := .failure (.StreamOpenFailure .OUTPUT), written := Config.sinkAfterFailure [] }) ∧
      (s.MODE ≠ .IDLE → ∀ src sink, process key dir (some src) (some sink) s =
        .next { state := s, result := .failure .CoreBusy, written := Config.sinkAfterFailure [] }))

/-- R242: a write that fails, whichever block's it is, ends the operation with END and WriteFailure, and the
core is IDLE again. -/
def Obligations.WriteFailureEndsTheOperation : Prop :=
  ∀ (key : List Byte) (dir : Direction) (s : State) (bytes : List Byte) (n : Nat),
    key.length = 16 → s.MODE = .IDLE → n < (streamBlocks bytes).length →
      ∃ r : Report, process key dir (some (Source.ofBytes bytes)) (some { room := some n }) s = .next r ∧
        r.result = .failure .WriteFailure ∧ r.state.MODE = .IDLE ∧ r.state.FA = 0#64 ∧ r.state.FB = 0#64 ∧
        r.state.FAULT = s.FAULT

/-- R211: no command of a PROCESS faults, whatever the source and the sink do, and it ends IDLE with zero
feedback, EK the key's schedule, and DK valid exactly for DEC; its command sequence is a well-behaved run. -/
def Obligations.ProcessRaisesNoFault : Prop :=
  ∀ (key : List Byte) (dir : Direction) (s : State), key.length = 16 → s.MODE = .IDLE →
    (∀ (src : Source) (sink : Sink),
      ∃ r : Report, process key dir (some src) (some sink) s = .next r ∧
        r.state.FAULT = s.FAULT ∧ r.state.MODE = .IDLE ∧ r.state.FA = 0#64 ∧ r.state.FB = 0#64 ∧
        r.state.EK = some (expand (keyOfBytes key)) ∧ r.state.EKV = true ∧
        (r.state.DKV = true ↔ dir = .DEC)) ∧
    (s.FAULT = .NONE → ∀ bytes : List Byte,
      wellBehaved ((processInstrs (keyOfBytes key) dir bytes).map encode) s)

/-- R212: an input of L bytes read to its end gives exactly `8 * ceil(L / 8)` bytes, and an empty one gives
none. -/
def Obligations.ProcessOutputLength : Prop :=
  ∀ (key : List Byte) (dir : Direction) (s : State) (bytes : List Byte),
    key.length = 16 → s.MODE = .IDLE →
      ∃ (r : Report) (out : List Byte), processBytes key dir bytes s = .next r ∧
        r.result = .output out ∧ r.written = out ∧ out.length = 8 * ((bytes.length + 7) / 8) ∧
        (bytes = [] → out = [] ∧ streamBlocks bytes = [])

/-- R68, R210: PROCESS is the run of the commands its pseudo-instruction expands to, and its output is the
DOUT value after each BLOCK, big-endian. -/
def Obligations.ProcessIsItsCommandSequence : Prop :=
  ∀ (key : List Byte) (dir : Direction) (s : State) (bytes : List Byte),
    key.length = 16 → s.MODE = .IDLE →
      ∃ (run : Run) (r : Report),
        runCommands ((processInstrs (keyOfBytes key) dir bytes).map encode) s = .next run ∧
        processBytes key dir bytes s = .next r ∧ r.state = run.state ∧
        r.result = .output (((run.douts.drop (match dir with | .ENC => 2 | .DEC => 3)).take
          (streamBlocks bytes).length).flatMap bytesOfBlock)

/-- R213, R214: an input of 1 to 16 bytes comes back from encryption and decryption followed by its zero
padding; an 8-byte block comes back exactly. -/
def Obligations.ShortInputsRoundTrip : Prop :=
  ∀ (key bytes : List Byte) (s s' : State),
    key.length = 16 → 1 ≤ bytes.length → bytes.length ≤ 16 → s.MODE = .IDLE → s'.MODE = .IDLE →
      ∃ (r r' : Report) (cipher : List Byte),
        processBytes key .ENC bytes s = .next r ∧ r.result = .output cipher ∧
        processBytes key .DEC cipher s' = .next r' ∧
        r'.result = .output (bytes ++
          List.replicate (8 * ((bytes.length + 7) / 8) - bytes.length) 0x00#8) ∧
        (bytes.length = 8 → r'.result = .output bytes)

/-! ### Several instances, and the assembler -/

/-- R37, R51: a command to one instance leaves every other alone and acts on its own as on a lone core, and
commands to different instances commute. -/
def Obligations.InstancesDoNotInterfere : Prop :=
  ∀ (n : Nat) (i j : Fin n) (c d : Command) (p : Platform n), i ≠ j →
    (∃ q : Platform n, issueTo i c p = .next q ∧ q[j.val] = p[j.val] ∧ issue c p[i.val] = .next q[i.val]) ∧
    andThen (issueTo i c p) (issueTo j d) = andThen (issueTo j d p) (issueTo i c)

/-- R67, R68: what the assembler makes of each written line: the word of R62 with the operands where R63
places them and zeros elsewhere; a literal that does not fit is refused; `.cmd` writes any word; the
pseudo-instructions expand. -/
def Obligations.AssemblerWritesTheCommands : Prop :=
  (∀ a b : Nat, a < 2 ^ 16 → b < 2 ^ 16 →
    assemble (.mul a b) = some [⟨0x01#8, BitVec.ofNat 128 (a * 2 ^ 16 + b)⟩]) ∧
  (∀ x : Nat, x < 2 ^ 16 → assemble (.addinv x) = some [⟨0x02#8, BitVec.ofNat 128 x⟩] ∧
    assemble (.mulinv x) = some [⟨0x03#8, BitVec.ofNat 128 x⟩]) ∧
  (∀ k : Nat, k < 2 ^ 128 → assemble (.keysched k) = some [⟨0x04#8, BitVec.ofNat 128 k⟩] ∧
    assemble (.loadkeyE k) = some [⟨0x04#8, BitVec.ofNat 128 k⟩] ∧
    assemble (.loadkeyD k) = some [⟨0x04#8, BitVec.ofNat 128 k⟩, ⟨0x05#8, 0#128⟩]) ∧
  (∀ b : Nat, b < 2 ^ 64 → assemble (.xformE b) = some [⟨0x06#8, BitVec.ofNat 128 b⟩] ∧
    assemble (.xformD b) = some [⟨0x07#8, BitVec.ofNat 128 b⟩] ∧
    assemble (.block b) = some [⟨0x0A#8, BitVec.ofNat 128 b⟩]) ∧
  assemble .nop = some [⟨0x00#8, 0#128⟩] ∧ assemble .revsched = some [⟨0x05#8, 0#128⟩] ∧
  assemble .startE = some [⟨0x08#8, 0#128⟩] ∧ assemble .startD = some [⟨0x09#8, 0#128⟩] ∧
  assemble .endChain = some [⟨0x0B#8, 0#128⟩] ∧
  (∀ w : Nat, w < 2 ^ 8 → assemble (.dotCmd w) = some [⟨BitVec.ofNat 8 w, 0#128⟩]) ∧
  (∀ (k : Nat) (dir : Direction) (bytes : List Byte), k < 2 ^ 128 →
    assemble (.process k dir bytes) = some ([⟨0x04#8, BitVec.ofNat 128 k⟩] ++
      (match dir with
        | .ENC => [⟨0x08#8, 0#128⟩]
        | .DEC => [⟨0x05#8, 0#128⟩, ⟨0x09#8, 0#128⟩]) ++
      (streamBlocks bytes).map (fun b => ⟨0x0A#8, b.setWidth 128⟩) ++ [⟨0x0B#8, 0#128⟩])) ∧
  ∀ line : AsmLine, line.wf = false → assemble line = none
end

