-- ==== Sys2Proof/Laws/Cipher.lean ====
section
/-! SUPPORT. Small lemmas of the cipher's functions: the values in naturals, the words of the two schedules,
the words of a block. -/

namespace Sys2Proof.Machine

/-! ### Modular arithmetic -/

@[simp] theorem trunc16_toNat (v : Nat) : (trunc16 v).toNat = v % 65536 := by
  simp [trunc16]

/-- A factor lies in 1..65536 (R100). -/
theorem factor_range (a : Word) : 1 ≤ factor a ∧ factor a ≤ 65536 := by
  unfold factor
  split
  · omega
  · rename_i h
    have hne : a.toNat ≠ 0 := fun h0 => h (BitVec.eq_of_toNat_eq (by simpa using h0))
    have := a.isLt
    omega

/-- Squaring and multiplying `n` times gives the power with exponent `2^n - 1` (R102, R110). -/
theorem powAllOnes_eq_pow (x n : Nat) : powAllOnes x n = x ^ (2 ^ n - 1) % 65537 := by
  induction n with
  | zero => rfl
  | succ n ih =>
    have he : 2 ^ (n + 1) - 1 = (2 ^ n - 1) + (2 ^ n - 1) + 1 := by
      have := Nat.one_le_two_pow (n := n)
      omega
    rw [powAllOnes, ih, he, pow_succ, pow_add]
    simp [Nat.mul_mod]

/-! ### Schedules -/

/-- Word `n` of `expand(k)` (R122). -/
@[simp] theorem expand_getElem (k : Key) (n : Nat) (h : n < 52) :
    (expand k)[n] = keyWord (keyRegister k (n / 8)) (n % 8) := by
  simp [expand]

/-- Word `n` of `reverse(S)` (R140). -/
@[simp] theorem reverse_getElem (S : Schedule) (n : Nat) (h : n < 52) :
    (reverse S)[n] = reverseWord S ⟨n, h⟩ := by
  simp [reverse]

/-! ### Blocks and their words -/

/-- Splitting the block put together from four words gives them back (R41). -/
@[simp] theorem quadOfBlock_blockOfQuad (q : Quad) : quadOfBlock (blockOfQuad q) = q := by
  rcases q with ⟨x0, x1, x2, x3⟩
  simp only [quadOfBlock, blockOfQuad, Quad.mk.injEq]
  refine ⟨?_, ?_, ?_, ?_⟩ <;>
    · apply BitVec.eq_of_getLsbD_eq
      intro i hi
      simp only [BitVec.getLsbD_extractLsb', BitVec.getLsbD_append, hi, decide_true, Bool.true_and]
      repeat' split
      all_goals first | omega | (congr 1; omega)

/-- Putting together the four words of a block gives it back (R41). -/
@[simp] theorem blockOfQuad_quadOfBlock (b : Block) : blockOfQuad (quadOfBlock b) = b := by
  simp only [quadOfBlock, blockOfQuad]
  apply BitVec.eq_of_getLsbD_eq
  intro i hi
  simp only [BitVec.getLsbD_extractLsb', BitVec.getLsbD_append]
  by_cases h0 : i < 16
  · simp [h0]
  by_cases h1 : i < 32
  · simp [h0, show i - 16 < 16 by omega, show 16 + (i - 16) = i by omega]
  by_cases h2 : i < 48
  · simp [h0, show ¬ i - 16 < 16 by omega, show i - 16 - 16 < 16 by omega,
      show 32 + (i - 16 - 16) = i by omega]
  · simp [h0, show ¬ i - 16 < 16 by omega, show ¬ i - 16 - 16 < 16 by omega,
      show i - 16 - 16 - 16 < 16 by omega, show 48 + (i - 16 - 16 - 16) = i by omega]

end Sys2Proof.Machine
end

