-- ==== Sys2Proof/Laws/State.lean ====
section
/-! SUPPORT. One lemma per field of State and update of it, the fields of the reset state, and the STATUS
bits of an updated state, so that no proof unfolds a record update. -/

namespace Sys2Proof.Machine

/-! ### State.setDoutWord -/

@[simp] theorem State.setDoutWord_EK (s : State) (r : Word) : (s.setDoutWord r).EK = s.EK := rfl
@[simp] theorem State.setDoutWord_DK (s : State) (r : Word) : (s.setDoutWord r).DK = s.DK := rfl
@[simp] theorem State.setDoutWord_FA (s : State) (r : Word) : (s.setDoutWord r).FA = s.FA := rfl
@[simp] theorem State.setDoutWord_FB (s : State) (r : Word) : (s.setDoutWord r).FB = s.FB := rfl
@[simp] theorem State.setDoutWord_DOUT (s : State) (r : Word) : (s.setDoutWord r).DOUT = r.setWidth 64 := rfl
@[simp] theorem State.setDoutWord_MODE (s : State) (r : Word) : (s.setDoutWord r).MODE = s.MODE := rfl
@[simp] theorem State.setDoutWord_FAULT (s : State) (r : Word) : (s.setDoutWord r).FAULT = s.FAULT := rfl
@[simp] theorem State.setDoutWord_pending (s : State) (r : Word) : (s.setDoutWord r).pending = s.pending := rfl
@[simp] theorem State.setDoutWord_EKV (s : State) (r : Word) : (s.setDoutWord r).EKV = s.EKV := rfl
@[simp] theorem State.setDoutWord_DKV (s : State) (r : Word) : (s.setDoutWord r).DKV = s.DKV := rfl
@[simp] theorem State.setDoutWord_STATUS (s : State) (r : Word) : (s.setDoutWord r).STATUS = s.STATUS := rfl

/-! ### State.setDout -/

@[simp] theorem State.setDout_EK (s : State) (out : Block) : (s.setDout out).EK = s.EK := rfl
@[simp] theorem State.setDout_DK (s : State) (out : Block) : (s.setDout out).DK = s.DK := rfl
@[simp] theorem State.setDout_FA (s : State) (out : Block) : (s.setDout out).FA = s.FA := rfl
@[simp] theorem State.setDout_FB (s : State) (out : Block) : (s.setDout out).FB = s.FB := rfl
@[simp] theorem State.setDout_DOUT (s : State) (out : Block) : (s.setDout out).DOUT = out := rfl
@[simp] theorem State.setDout_MODE (s : State) (out : Block) : (s.setDout out).MODE = s.MODE := rfl
@[simp] theorem State.setDout_FAULT (s : State) (out : Block) : (s.setDout out).FAULT = s.FAULT := rfl
@[simp] theorem State.setDout_pending (s : State) (out : Block) : (s.setDout out).pending = s.pending := rfl
@[simp] theorem State.setDout_EKV (s : State) (out : Block) : (s.setDout out).EKV = s.EKV := rfl
@[simp] theorem State.setDout_DKV (s : State) (out : Block) : (s.setDout out).DKV = s.DKV := rfl
@[simp] theorem State.setDout_STATUS (s : State) (out : Block) : (s.setDout out).STATUS = s.STATUS := rfl

/-! ### State.setFeedback -/

@[simp] theorem State.setFeedback_EK (s : State) (a b : Block) : (s.setFeedback a b).EK = s.EK := rfl
@[simp] theorem State.setFeedback_DK (s : State) (a b : Block) : (s.setFeedback a b).DK = s.DK := rfl
@[simp] theorem State.setFeedback_FA (s : State) (a b : Block) : (s.setFeedback a b).FA = a := rfl
@[simp] theorem State.setFeedback_FB (s : State) (a b : Block) : (s.setFeedback a b).FB = b := rfl
@[simp] theorem State.setFeedback_DOUT (s : State) (a b : Block) : (s.setFeedback a b).DOUT = s.DOUT := rfl
@[simp] theorem State.setFeedback_MODE (s : State) (a b : Block) : (s.setFeedback a b).MODE = s.MODE := rfl
@[simp] theorem State.setFeedback_FAULT (s : State) (a b : Block) : (s.setFeedback a b).FAULT = s.FAULT := rfl
@[simp] theorem State.setFeedback_pending (s : State) (a b : Block) : (s.setFeedback a b).pending = s.pending := rfl
@[simp] theorem State.setFeedback_EKV (s : State) (a b : Block) : (s.setFeedback a b).EKV = s.EKV := rfl
@[simp] theorem State.setFeedback_DKV (s : State) (a b : Block) : (s.setFeedback a b).DKV = s.DKV := rfl
@[simp] theorem State.setFeedback_STATUS (s : State) (a b : Block) : (s.setFeedback a b).STATUS = s.STATUS := rfl

/-! ### State.beginMode -/

@[simp] theorem State.beginMode_EK (s : State) (m : Mode) : (s.beginMode m).EK = s.EK := rfl
@[simp] theorem State.beginMode_DK (s : State) (m : Mode) : (s.beginMode m).DK = s.DK := rfl
@[simp] theorem State.beginMode_FA (s : State) (m : Mode) : (s.beginMode m).FA = 0#64 := rfl
@[simp] theorem State.beginMode_FB (s : State) (m : Mode) : (s.beginMode m).FB = 0#64 := rfl
@[simp] theorem State.beginMode_DOUT (s : State) (m : Mode) : (s.beginMode m).DOUT = s.DOUT := rfl
@[simp] theorem State.beginMode_MODE (s : State) (m : Mode) : (s.beginMode m).MODE = m := rfl
@[simp] theorem State.beginMode_FAULT (s : State) (m : Mode) : (s.beginMode m).FAULT = s.FAULT := rfl
@[simp] theorem State.beginMode_pending (s : State) (m : Mode) : (s.beginMode m).pending = s.pending := rfl
@[simp] theorem State.beginMode_EKV (s : State) (m : Mode) : (s.beginMode m).EKV = s.EKV := rfl
@[simp] theorem State.beginMode_DKV (s : State) (m : Mode) : (s.beginMode m).DKV = s.DKV := rfl

/-! ### The reset state -/

@[simp] theorem State.reset_EK : State.reset.EK = none := rfl
@[simp] theorem State.reset_DK : State.reset.DK = none := rfl
@[simp] theorem State.reset_FA : State.reset.FA = 0#64 := rfl
@[simp] theorem State.reset_FB : State.reset.FB = 0#64 := rfl
@[simp] theorem State.reset_DOUT : State.reset.DOUT = 0#64 := rfl
@[simp] theorem State.reset_MODE : State.reset.MODE = .IDLE := rfl
@[simp] theorem State.reset_FAULT : State.reset.FAULT = .NONE := rfl
@[simp] theorem State.reset_pending : State.reset.pending = [] := rfl

/-! ### Presence and the valid bits -/

/-- EKV is 1 exactly when EK holds a schedule (R29). -/
theorem State.EKV_eq_true_iff (s : State) : s.EKV = true ↔ ∃ ek, s.EK = some ek := by
  simp [State.EKV, Option.isSome_iff_exists]

/-- EKV is 0 exactly when EK holds none (R29). -/
theorem State.EKV_eq_false_iff (s : State) : s.EKV = false ↔ s.EK = none := by
  simp [State.EKV]

/-- DKV is 1 exactly when DK holds a schedule (R30). -/
theorem State.DKV_eq_true_iff (s : State) : s.DKV = true ↔ ∃ dk, s.DK = some dk := by
  simp [State.DKV, Option.isSome_iff_exists]

/-- DKV is 0 exactly when DK holds none (R30). -/
theorem State.DKV_eq_false_iff (s : State) : s.DKV = false ↔ s.DK = none := by
  simp [State.DKV]

end Sys2Proof.Machine
end

