-- ==== Sys2Proof/Laws/Ops.lean ====
section
/-! SUPPORT. What each shared operation can do, said once; provers cite these instead of unfolding. -/

namespace Sys2Proof.Machine

/-! ### Sequencing -/

@[simp] theorem andThen_next {α β : Type} (a : α) (k : α → Host.Outcome β Fault Refusal) :
    andThen (.next a) k = k a := rfl

@[simp] theorem andThen_fault {α β : Type} (r : Fault) (k : α → Host.Outcome β Fault Refusal) :
    andThen (.fault r) k = .fault r := rfl

@[simp] theorem andThen_refused {α β : Type} (r : Refusal) (k : α → Host.Outcome β Fault Refusal) :
    andThen (.refused r) k = .refused r := rfl

/-- A sequence answers next exactly when both halves do. -/
theorem andThen_eq_next_iff {α β : Type} (o : Host.Outcome α Fault Refusal)
    (k : α → Host.Outcome β Fault Refusal) (b : β) :
    andThen o k = .next b ↔ ∃ a, o = .next a ∧ k a = .next b := by
  cases o <;> simp

/-! ### Taking a fault -/

/-- The first fault of a run records its code (R232). -/
theorem raise_first (code : FaultCode) (s : State) (h : s.FAULT = .NONE) :
    raise code s = .next { s with FAULT := code } := by
  simp [raise, h]

/-- A later fault changes nothing at all (R232, R245). -/
theorem raise_later (code : FaultCode) (s : State) (h : s.FAULT ≠ .NONE) : raise code s = .next s := by
  simp [raise, h]

/-- Everything a fault entry can do (R232). -/
theorem raise_cases {code : FaultCode} {s t : State} (h : raise code s = .next t) :
    (s.FAULT = .NONE ∧ t = { s with FAULT := code }) ∨ (s.FAULT ≠ .NONE ∧ t = s) := by
  by_cases hf : s.FAULT = .NONE
  · rw [raise_first code s hf] at h
    exact .inl ⟨hf, (Host.Outcome.next.inj h).symm⟩
  · rw [raise_later code s hf] at h
    exact .inr ⟨hf, (Host.Outcome.next.inj h).symm⟩

/-- A fault entry completes (R230, R275). -/
theorem raise_completes (code : FaultCode) (s : State) : ∃ t, raise code s = .next t := ⟨_, rfl⟩

/-! ### Guarded reads of the schedules -/

theorem withEK_present {s : State} {ek : Schedule} (h : s.EK = some ek)
    (use : Schedule → Host.Outcome State Fault Refusal) : withEK s use = use ek := by
  simp [withEK, h]

theorem withEK_absent {s : State} (h : s.EK = none) (use : Schedule → Host.Outcome State Fault Refusal) :
    withEK s use = raise .NO_EK s := by
  simp [withEK, h]

theorem withDK_present {s : State} {dk : Schedule} (h : s.DK = some dk)
    (use : Schedule → Host.Outcome State Fault Refusal) : withDK s use = use dk := by
  simp [withDK, h]

theorem withDK_absent {s : State} (h : s.DK = none) (use : Schedule → Host.Outcome State Fault Refusal) :
    withDK s use = raise .NO_DK s := by
  simp [withDK, h]

/-- Everything a command that reads EK can do (R29, R233). -/
theorem withEK_cases {s t : State} {use : Schedule → Host.Outcome State Fault Refusal}
    (h : withEK s use = .next t) :
    (s.EK = none ∧ raise .NO_EK s = .next t) ∨ ∃ ek, s.EK = some ek ∧ use ek = .next t := by
  cases hk : s.EK with
  | none => exact .inl ⟨rfl, by rwa [withEK_absent hk] at h⟩
  | some ek => exact .inr ⟨ek, rfl, by rwa [withEK_present hk] at h⟩

/-- Everything a command that reads DK can do (R30, R234). -/
theorem withDK_cases {s t : State} {use : Schedule → Host.Outcome State Fault Refusal}
    (h : withDK s use = .next t) :
    (s.DK = none ∧ raise .NO_DK s = .next t) ∨ ∃ dk, s.DK = some dk ∧ use dk = .next t := by
  cases hk : s.DK with
  | none => exact .inl ⟨rfl, by rwa [withDK_absent hk] at h⟩
  | some dk => exact .inr ⟨dk, rfl, by rwa [withDK_present hk] at h⟩

end Sys2Proof.Machine
end

