-- ==== Sys2Proof/Laws/Issue.lean ====
section
/-! SUPPORT. Inversion lemmas of the commands that branch, of issuing a command, of runs and of a step: what
each can do, guards included. -/

namespace Sys2Proof.Machine

/-- Everything KEYSCHED can do (R124). -/
theorem execKeysched_cases {k : Key} {s t : State} (h : execKeysched k s = .next t) :
    (s.MODE = .IDLE ∧ t = { s with EK := some (expand k), DK := none }) ∨
      (s.MODE ≠ .IDLE ∧ raise .KEY_IN_USE s = .next t) := by
  by_cases hm : s.MODE = .IDLE
  · rw [execKeysched, if_pos hm] at h
    exact .inl ⟨hm, (Host.Outcome.next.inj h).symm⟩
  · rw [execKeysched, if_neg hm] at h
    exact .inr ⟨hm, h⟩

/-- Everything BLOCK can do (R192, R193, R194). -/
theorem execBlock_cases {raw : Block} {s t : State} (h : execBlock raw s = .next t) :
    (s.MODE = .IDLE ∧ raise .NO_CHAIN s = .next t) ∨ (s.MODE = .ENC ∧ blockEnc raw s = .next t) ∨
      (s.MODE = .DEC ∧ blockDec raw s = .next t) := by
  cases hm : s.MODE <;> simp_all [execBlock]

/-- A legal word runs its instruction (R60, R62). -/
theorem issue_of_decode_ok {c : Command} {i : Instr} (h : decode c = .ok i) (s : State) :
    issue c s = exec i s := by
  simp [issue, h]

/-- An illegal word raises ILLEGAL_CMD (R65, R237). -/
theorem issue_of_decode_error {c : Command} {e : DecodeError} (h : decode c = .error e) (s : State) :
    issue c s = raise .ILLEGAL_CMD s := by
  simp [issue, h]

@[simp] theorem runCommands_nil (s : State) : runCommands [] s = .next { state := s, douts := [] } := rfl

/-- A run of one command more, when the command answers next (R276). -/
theorem runCommands_cons_of_next {c : Command} {s t : State} (h : issue c s = .next t) (cs : List Command) :
    runCommands (c :: cs) s =
      andThen (runCommands cs t) fun r => .next { state := r.state, douts := t.DOUT :: r.douts } := by
  simp [runCommands, h]

/-- With an input lined up a step delivers it, taken off the list. -/
theorem step_of_pending {s : State} {e : Input} {rest : List Input} (h : s.pending = e :: rest) :
    step s = takeInput e { s with pending := rest } := by
  simp [step, h]

/-- With nothing lined up a step changes nothing (R251). -/
theorem step_of_nothing_pending {s : State} (h : s.pending = []) : step s = .next s := by
  simp [step, h]

/-- One step more of a host's run, when the step answers next. -/
theorem run_succ_of_next {M : Host.Core} {s t : M.State} (h : M.step s = .next t) (n : Nat) :
    M.run (n + 1) s = M.run n t := by
  simp only [Host.Core.run, h]

/-- One step more of a host's run, when the step stops with a fault. -/
theorem run_succ_of_fault {M : Host.Core} {s : M.State} {r : M.Fault} (h : M.step s = .fault r) (n : Nat) :
    M.run (n + 1) s = .fault r := by
  simp only [Host.Core.run, h]

/-- One step more of a host's run, when the step is refused. -/
theorem run_succ_of_refused {M : Host.Core} {s : M.State} {r : M.Refusal} (h : M.step s = .refused r)
    (n : Nat) : M.run (n + 1) s = .refused r := by
  simp only [Host.Core.run, h]

/-- The host's run of the machine it reads is `runSteps`. -/
theorem core_run_eq_runSteps (n : Nat) (s : State) : Host.Core.run Sys2Proof.core n s = runSteps n s := by
  induction n generalizing s with
  | zero => rfl
  | succ n ih =>
    cases h : step s with
    | next t => rw [run_succ_of_next (M := Sys2Proof.core) h]; simp only [runSteps, h, andThen_next, ih]; rfl
    | fault r => rw [run_succ_of_fault (M := Sys2Proof.core) h]; simp only [runSteps, h, andThen_fault]; rfl
    | refused r => rw [run_succ_of_refused (M := Sys2Proof.core) h]; simp only [runSteps, h, andThen_refused]; rfl

end Sys2Proof.Machine
end

