-- ==== Sys2Proof/Laws/PerInstr.lean ====
section
/-! SUPPORT. The per-instruction family EncodeIsLegal: what the encoder writes is a legal command word (R65)
with every unused bit of `din` zero (R67). -/

namespace Sys2Proof.Laws.EncodeIsLegal

/-- The encoder's command is legal and leaves no stray bit. -/
def Statement (i : Instr) : Prop := (encode i).legal = true ∧ (encode i).unusedZero = true

/-- An operand narrower than `din` leaves the bits above its width zero. -/
theorem setWidth_shift_zero {w : Nat} (x : BitVec w) (n : Nat) (h : w ≤ n) :
    x.setWidth 128 >>> n = 0#128 := by
  apply BitVec.eq_of_getLsbD_eq
  intro i _
  simp only [BitVec.getLsbD_ushiftRight, BitVec.getLsbD_setWidth, BitVec.getLsbD_zero]
  rw [BitVec.getLsbD_of_ge x (n + i) (by omega)]
  simp

/-- Whether a command is legal is a matter of its word alone (R61). -/
theorem legal_of_word (w : BitVec 8) (d : BitVec 128) (h : Command.legal ⟨w, 0#128⟩ = true) :
    Command.legal ⟨w, d⟩ = true := h

theorem nop : Statement .nop := ⟨by decide, by decide⟩
theorem mul (a b : Word) : Statement (.mul a b) :=
  ⟨legal_of_word 0x01#8 _ (by decide), beq_iff_eq.mpr (setWidth_shift_zero (a ++ b) 32 (by omega))⟩
theorem addinv (x : Word) : Statement (.addinv x) :=
  ⟨legal_of_word 0x02#8 _ (by decide), beq_iff_eq.mpr (setWidth_shift_zero x 16 (by omega))⟩
theorem mulinv (x : Word) : Statement (.mulinv x) :=
  ⟨legal_of_word 0x03#8 _ (by decide), beq_iff_eq.mpr (setWidth_shift_zero x 16 (by omega))⟩
theorem keysched (k : Key) : Statement (.keysched k) :=
  ⟨legal_of_word 0x04#8 _ (by decide),
    beq_iff_eq.mpr ((BitVec.setWidth_eq k) ▸ setWidth_shift_zero k 128 (by omega))⟩
theorem revsched : Statement .revsched := ⟨by decide, by decide⟩
theorem xformE (blk : Block) : Statement (.xformE blk) :=
  ⟨legal_of_word 0x06#8 _ (by decide), beq_iff_eq.mpr (setWidth_shift_zero blk 64 (by omega))⟩
theorem xformD (blk : Block) : Statement (.xformD blk) :=
  ⟨legal_of_word 0x07#8 _ (by decide), beq_iff_eq.mpr (setWidth_shift_zero blk 64 (by omega))⟩
theorem startE : Statement .startE := ⟨by decide, by decide⟩
theorem startD : Statement .startD := ⟨by decide, by decide⟩
theorem block (raw : Block) : Statement (.block raw) :=
  ⟨legal_of_word 0x0A#8 _ (by decide), beq_iff_eq.mpr (setWidth_shift_zero raw 64 (by omega))⟩
theorem endChain : Statement .endChain := ⟨by decide, by decide⟩

end Sys2Proof.Laws.EncodeIsLegal
end

