-- ==== Sys2Proof/Tests/Slice0.lean ====
section
/-! SUPPORT. The model's own tests. Expected values come from spec/95_test_vectors.md (the section is named
at each test), from the worked examples of the command rules, or from the encoding tables of
spec/30_encoding.md; none was read off the model. At the end: for every statement of
Certificates/Slice0/Obligations.lean that has hypotheses, a concrete state and operands that meet them. -/

namespace Sys2Proof.Tests

open Sys2Proof.Machine

/-! ### Keys and states used below (spec/95_test_vectors.md, named keys) -/

/-- K_A. -/
def keyA : Key := 0x00010002000300040005000600070008#128

/-- K_B. -/
def keyB : Key := 0x0123456789ABCDEF0123456789ABCDEF#128

/-- K_S, the bytes of "0123456789ABCDEF". -/
def keyS : Key := 0x30313233343536373839414243444546#128

/-- After KEYSCHED with `k` from reset. -/
def keyed (k : Key) : State := { State.reset with EK := some (expand k) }

/-- After KEYSCHED with `k` and REVSCHED from reset. -/
def keyedBoth (k : Key) : State := { keyed k with DK := some (reverse (expand k)) }

/-- The next state of an outcome, for reading one field of it. -/
def nextOf (o : Host.Outcome State Fault Refusal) : Option State :=
  match o with
  | .next s => some s
  | .fault _ => none
  | .refused _ => none

/-- What the host reads after an outcome. -/
def viewOf (o : Host.Outcome State Fault Refusal) : Option HostView := (nextOf o).map hostView

/-- FA and FB after an outcome. -/
def feedbackOf (o : Host.Outcome State Fault Refusal) : Option (Block × Block) :=
  (nextOf o).map fun s => (s.FA, s.FB)

/-- The 16 bytes of K_S, the characters "0123456789ABCDEF". -/
def keyBytes : List Byte := "0123456789ABCDEF".toList.map fun c => BitVec.ofNat 8 c.toNat

/-! ### Ill-formed terms are refused (WellFormed.lean) -/

theorem test_legal_refuses_reserved_opcode : Command.legal ⟨0x0C#8, 0#128⟩ = false := by decide
theorem test_legal_refuses_reserved_bits : Command.legal ⟨0x1A#8, 0#128⟩ = false := by decide
theorem test_legal_accepts_end : Command.legal ⟨0x0B#8, 0#128⟩ = true := by decide
theorem test_unusedZero_refuses_stray_bit : Command.unusedZero ⟨0x02#8, 0x10000#128⟩ = false := by decide
theorem test_wf_refuses_mul_first : (AsmLine.mul 0x10000 0).wf = false := by decide
theorem test_wf_refuses_mul_second : (AsmLine.mul 0 0x10000).wf = false := by decide
theorem test_wf_refuses_addinv : (AsmLine.addinv 0x10000).wf = false := by decide
theorem test_wf_refuses_mulinv : (AsmLine.mulinv 0x10000).wf = false := by decide
theorem test_wf_refuses_keysched : (AsmLine.keysched (2 ^ 128)).wf = false := by decide
theorem test_wf_refuses_xform : (AsmLine.xformE (2 ^ 64)).wf = false ∧ (AsmLine.xformD (2 ^ 64)).wf = false := by
  decide
theorem test_wf_refuses_block : (AsmLine.block (2 ^ 64)).wf = false := by decide
theorem test_wf_refuses_dotCmd : (AsmLine.dotCmd 0x100).wf = false := by decide
theorem test_wf_refuses_pseudo :
    (AsmLine.loadkeyE (2 ^ 128)).wf = false ∧ (AsmLine.loadkeyD (2 ^ 128)).wf = false ∧
      (AsmLine.process (2 ^ 128) .ENC []).wf = false := by decide
theorem test_readsWf_refuses_nine_bytes : readsWf [List.replicate 9 0#8] = false := by decide

/-! ### Decoding, each word written out from the encoding of R61, R62, R63 -/

theorem test_decode_nop : decode ⟨0b00000000#8, 0#128⟩ = .ok .nop := by decide
theorem test_decode_mul : decode ⟨0b00000001#8, 0x12345678#128⟩ = .ok (.mul 0x1234#16 0x5678#16) := by decide
theorem test_decode_addinv : decode ⟨0b00000010#8, 0xABCD1234#128⟩ = .ok (.addinv 0x1234#16) := by decide
theorem test_decode_mulinv : decode ⟨0b00000011#8, 0x2#128⟩ = .ok (.mulinv 0x0002#16) := by decide
theorem test_decode_keysched :
    decode ⟨0b00000100#8, 0x00010002000300040005000600070008#128⟩ = .ok (.keysched keyA) := by decide
theorem test_decode_revsched : decode ⟨0b00000101#8, 0#128⟩ = .ok .revsched := by decide
theorem test_decode_xformE :
    decode ⟨0b00000110#8, 0xFFFFFFFFFFFFFFFF0000000100020003#128⟩ = .ok (.xformE 0x0000000100020003#64) := by
  decide
theorem test_decode_xformD :
    decode ⟨0b00000111#8, 0x11FBED2B01986DE5#128⟩ = .ok (.xformD 0x11FBED2B01986DE5#64) := by decide
theorem test_decode_startE : decode ⟨0b00001000#8, 0#128⟩ = .ok .startE := by decide
theorem test_decode_startD : decode ⟨0b00001001#8, 0#128⟩ = .ok .startD := by decide
theorem test_decode_block :
    decode ⟨0b00001010#8, 0x4142434445000000#128⟩ = .ok (.block 0x4142434445000000#64) := by decide
theorem test_decode_end : decode ⟨0b00001011#8, 0#128⟩ = .ok .endChain := by decide
theorem test_decode_reserved_opcode : decode ⟨0x0C#8, 0#128⟩ = .error .reservedOpcode := by decide
theorem test_decode_reserved_bits : decode ⟨0x10#8, 0#128⟩ = .error .reservedBits := by decide
theorem test_encode_mul : encode (.mul 0x1234#16 0x5678#16) = ⟨0x01#8, 0x12345678#128⟩ := by decide
theorem test_table_word_of_nop : decodeTableWord 8 0x00 = some .nop := by decide
theorem test_table_word_of_block : decodeTableWord 8 0x0A = some (.block 0#64) := by decide
theorem test_table_word_with_din : decodeTableWord 136 0x1234567801 = some (.mul 0x1234#16 0x5678#16) := by decide
theorem test_fetch_word_runs_next :
    step (State.reset.withFetchWord 8 0x08) = exec .startE State.reset := by rfl

/-! ### Modular arithmetic (95, section 3) -/

theorem test_mul_table :
    mul 0#16 0#16 = 1#16 ∧ mul 0#16 1#16 = 0#16 ∧ mul 0xFFFF#16 0xFFFF#16 = 4#16 ∧
      mul 0x8000#16 0x0002#16 = 0#16 ∧ mul 0x1234#16 0x5678#16 = 0xFA3B#16 ∧
      mul 0x8000#16 0x8000#16 = 0xC001#16 := by decide
theorem test_addinv_table :
    addinv 0#16 = 0#16 ∧ addinv 1#16 = 0xFFFF#16 ∧ addinv 0x8000#16 = 0x8000#16 ∧
      addinv 0x1234#16 = 0xEDCC#16 := by decide
theorem test_mulinv_table :
    mulinv 0#16 = 0#16 ∧ mulinv 1#16 = 1#16 ∧ mulinv 2#16 = 0x8001#16 ∧ mulinv 3#16 = 0x5556#16 ∧
      mulinv 0x8000#16 = 0xFFFF#16 ∧ mulinv 0xFFFE#16 = 0xAAAB#16 ∧ mulinv 0x1234#16 = 0x9E9A#16 := by decide

/-- R105, example. -/
theorem test_mul_command :
    viewOf (issue ⟨0x01#8, 0x00030007#128⟩ State.reset) = some ⟨0x15#64, 0x00#8⟩ := by decide
/-- P1, step 3. -/
theorem test_addinv_command :
    viewOf (issue ⟨0x02#8, 0x1234#128⟩ State.reset) = some ⟨0xEDCC#64, 0x00#8⟩ := by decide
/-- P1, step 4. -/
theorem test_mulinv_command :
    viewOf (issue ⟨0x03#8, 0x0002#128⟩ State.reset) = some ⟨0x8001#64, 0x00#8⟩ := by decide

/-! ### Schedules (95, sections 4 and 5) -/

/-- Section 4.1. -/
theorem test_expand_keyA :
    (expand keyA).toList =
      [0x0001, 0x0002, 0x0003, 0x0004, 0x0005, 0x0006] ++ [0x0007, 0x0008, 0x0400, 0x0600, 0x0800, 0x0A00]
      ++ [0x0C00, 0x0E00, 0x1000, 0x0200, 0x0010, 0x0014] ++ [0x0018, 0x001C, 0x0020, 0x0004, 0x0008, 0x000C]
      ++ [0x2800, 0x3000, 0x3800, 0x4000, 0x0800, 0x1000] ++ [0x1800, 0x2000, 0x0070, 0x0080, 0x0010, 0x0020]
      ++ [0x0030, 0x0040, 0x0050, 0x0060, 0x0000, 0x2000] ++ [0x4000, 0x6000, 0x8000, 0xA000, 0xC000, 0xE001]
      ++ [0x0080, 0x00C0, 0x0100, 0x0140] := by decide +kernel
/-- Section 4.5, rows 1, 5 and 8. -/
theorem test_expand_keyS :
    ((expand keyS).toList.drop 6).take 6 = [0x4344, 0x4546, 0x6668, 0x6A6C, 0x6E70, 0x7282] ∧
      ((expand keyS).toList.drop 30).take 6 = [0xA9B1, 0xB9C1, 0x3444, 0x5463, 0x0313, 0x2333] ∧
      (expand keyS).toList.drop 48 = [0x8CCD, 0x0D4D, 0x8DCE, 0x0E50] := by decide +kernel
/-- Section 5.1. -/
theorem test_reverse_keyA :
    (reverse (expand keyA)).toList =
      [0xFE01, 0xFF40, 0xFF00, 0x659A, 0xC000, 0xE001] ++ [0xFFFD, 0x8000, 0xA000, 0xCCCC, 0x0000, 0x2000]
      ++ [0xA556, 0xFFB0, 0xFFC0, 0x52AB, 0x0010, 0x0020] ++ [0x554B, 0xFF90, 0xE000, 0xFE01, 0x0800, 0x1000]
      ++ [0x332D, 0xC800, 0xD000, 0xFFFD, 0x0008, 0x000C] ++ [0x4AAB, 0xFFE0, 0xFFE4, 0xC001, 0x0010, 0x0014]
      ++ [0xAA96, 0xF000, 0xF200, 0xFF81, 0x0800, 0x0A00] ++ [0x4925, 0xFC00, 0xFFF8, 0x552B, 0x0005, 0x0006]
      ++ [0x0001, 0xFFFE, 0xFFFD, 0xC001] := by decide +kernel
/-- P2, step 1: STATUS 0x01. -/
theorem test_keysched_command :
    viewOf (issue ⟨0x04#8, 0x00010002000300040005000600070008#128⟩ State.reset) = some ⟨0#64, 0x01#8⟩ := by
  decide +kernel
/-- Row 8.11: KEY_IN_USE, STATUS 0x55, EK still expand(K_A). -/
theorem test_keysched_in_use :
    (nextOf (exec (.keysched keyB) { keyed keyA with MODE := .ENC })).map (fun s => (s.STATUS, s.EK)) =
      some (0x55#8, some (expand keyA)) := by decide +kernel
/-- Section 5.5, rows 0 and 8. -/
theorem test_revsched_command :
    (nextOf (exec .revsched (keyed keyS))).map
      (fun s => (s.STATUS, s.DK.map fun dk => (dk.toList.take 6, dk.toList.drop 48))) =
      some (0x03#8, some ([0x4922, 0xF2B3, 0x7232, 0x2EE2, 0x4868, 0x88A8], [0x5BC8, 0xCDCD, 0xCBCB, 0x782C])) := by
  decide +kernel
/-- Row 8.4: NO_EK. -/
theorem test_revsched_no_ek : viewOf (exec .revsched State.reset) = some ⟨0#64, 0x20#8⟩ := by decide

/-! ### The block transform (95, sections 2 and 6) -/

/-- R160, example; section 6.1, round 0. -/
theorem test_round_zero :
    roundStep ⟨0x0000, 0x0001, 0x0002, 0x0003⟩ 1 2 3 4 5 6 = ⟨0x00F0, 0x00F5, 0x010A, 0x0105⟩ := by decide
/-- Section 6.1, output transform. -/
theorem test_output_step :
    outputStep ⟨0x0A24, 0x0098, 0xEC6B, 0x4925⟩ 0x0080 0x00C0 0x0100 0x0140 =
      ⟨0x11FB, 0xED2B, 0x0198, 0x6DE5⟩ := by decide
/-- Section 6.3, the all-one key and block. -/
theorem test_transform_all_ones :
    transform 0xFFFFFFFFFFFFFFFF#64 (Vector.replicate 52 0xFFFF#16) = 0xCD1AB2C1211041FB#64 := by decide +kernel
/-- Section 6.4, fourth row: the high half of din is ignored. -/
theorem test_xformE_command :
    viewOf (issue ⟨0x06#8, 0xFFFFFFFFFFFFFFFF0000000000000000#128⟩ (keyed keyA)) =
      some ⟨0x28D32D260FEC0309#64, 0x01#8⟩ := by decide +kernel
/-- Row 8.5: NO_EK. -/
theorem test_xformE_no_ek : viewOf (exec (.xformE 0#64) State.reset) = some ⟨0#64, 0x20#8⟩ := by decide
/-- P2, step 4. -/
theorem test_xformD_command :
    viewOf (exec (.xformD 0x11FBED2B01986DE5#64) (keyedBoth keyA)) = some ⟨0x0000000100020003#64, 0x03#8⟩ := by
  decide +kernel
/-- Row 8.7: NO_DK. -/
theorem test_xformD_no_dk : viewOf (exec (.xformD 0#64) (keyed keyA)) = some ⟨0#64, 0x31#8⟩ := by decide +kernel

/-! ### Chaining (95, sections 7 and 8) -/

/-- R190, example. -/
theorem test_startE_command :
    (nextOf (exec .startE { State.reset with FA := 0x1111111111111111#64, MODE := .DEC })).map
      (fun s => (s.FA, s.FB, s.STATUS)) = some (0#64, 0#64, 0x04#8) := by decide
/-- R191, example. -/
theorem test_startD_command :
    (nextOf (exec .startD State.reset)).map (fun s => (s.FA, s.FB, s.STATUS)) = some (0#64, 0#64, 0x08#8) := by
  decide
/-- Section 7.1, second encrypted block: FA takes the masked block, FB the output. -/
theorem test_block_enc_feedback :
    feedbackOf (exec (.block 0x0004000500060007#64)
      { keyed keyA with MODE := .ENC, FA := 0x0000000100020003#64, FB := 0x11FBED2B01986DE5#64 }) =
      some (0x11FFED2F019C6DE1#64, 0xF4AE36A04B626DD6#64) := by decide +kernel
/-- Section 7.1, third decrypted block: FA takes the raw ciphertext, FB the output. -/
theorem test_block_dec_feedback :
    feedbackOf (exec (.block 0xFE77055B56189865#64)
      { keyedBoth keyA with MODE := .DEC, FA := 0xF4AE36A04B626DD6#64, FB := 0x0004000500060007#64 }) =
      some (0xFE77055B56189865#64, 0x11F3ED2301906DED#64) := by decide +kernel
/-- Row 8.10: NO_CHAIN. -/
theorem test_block_no_chain : viewOf (exec (.block 0#64) State.reset) = some ⟨0#64, 0x40#8⟩ := by decide
/-- Row 8.6: NO_EK in ENC; row 8.9: NO_DK in DEC. -/
theorem test_block_no_schedule :
    viewOf (exec (.block 0#64) { State.reset with MODE := .ENC }) = some ⟨0#64, 0x24#8⟩ ∧
      viewOf (exec (.block 0#64) { keyed keyA with MODE := .DEC }) = some ⟨0#64, 0x39#8⟩ := by decide +kernel
/-- P3, step 12: STATUS 0x03, DOUT kept. -/
theorem test_end_command :
    (nextOf (exec .endChain { keyedBoth keyA with
        MODE := .DEC, FA := 0xFE77055B56189865#64, FB := 0x11F3ED2301906DED#64, DOUT := 0x11F3ED2301906DED#64 })).map
      (fun s => (s.FA, s.FB, hostView s)) = some (0#64, 0#64, ⟨0x11F3ED2301906DED#64, 0x03#8⟩) := by
  decide +kernel
/-- R197. -/
theorem test_nop_command : exec .nop State.reset = .next State.reset := by rfl

/-! ### Faults and reset (95, section 8) -/

/-- Rows 8.1, 8.2, 8.3, 8.13. -/
theorem test_illegal_words :
    viewOf (issue ⟨0x0C#8, 0#128⟩ State.reset) = some ⟨0#64, 0x10#8⟩ ∧
      viewOf (issue ⟨0x10#8, 0#128⟩ State.reset) = some ⟨0#64, 0x10#8⟩ ∧
      viewOf (issue ⟨0xFF#8, 0#128⟩ State.reset) = some ⟨0#64, 0x10#8⟩ ∧
      viewOf (issue ⟨0x1A#8, 0#128⟩ State.reset) = some ⟨0#64, 0x10#8⟩ := by decide
/-- Row 8.14: the first code stays. -/
theorem test_first_fault_stays :
    viewOf (issue ⟨0x06#8, 0#128⟩ { State.reset with FAULT := .NO_CHAIN }) = some ⟨0#64, 0x40#8⟩ := by decide
/-- R260: the reset input clears FAULT and EKV. -/
theorem test_reset_input :
    (nextOf (step { keyed keyA with FAULT := .NO_DK, pending := [.reset, .reset] })).map
      (fun s => (s.STATUS, s.pending)) = some (0x00#8, [.reset]) := by decide +kernel
/-- R251, R261: with nothing lined up the core waits. -/
theorem test_waits : step State.reset = .next State.reset := by rfl

/-! ### Host side (95, section 7.4; R67) -/

/-- The bytes of "ABCDE" and its padded block (section 7.4). -/
theorem test_stream_blocks_of_five_bytes :
    streamBlocks [0x41, 0x42, 0x43, 0x44, 0x45] = [0x4142434445000000#64] := by decide
/-- The bytes of K_S (section "named keys"). -/
theorem test_key_of_bytes : keyOfBytes keyBytes = keyS := by decide +kernel
theorem test_bytes_of_block :
    bytesOfBlock 0x62936B6A8DE330B7#64 = [0x62, 0x93, 0x6B, 0x6A, 0x8D, 0xE3, 0x30, 0xB7] := by decide
/-- A line and its listing, from P1, step 2. -/
theorem test_assemble_text :
    assembleText "MUL 0x1234, 0x5678 ; general".toList = some [⟨0x01#8, 0x12345678#128⟩] := by decide +kernel
/-- Every digit a listing writes reads back as its value, letters in either case, and their neighbours in the
character table are no digits. -/
theorem test_hex_digits :
    (∀ d, d < 16 → hexValue (hexDigitChar d) = some d) ∧ hexValue 'a' = some 10 ∧ hexValue 'f' = some 15 ∧
      hexValue '/' = none ∧ hexValue ':' = none ∧ hexValue '@' = none ∧ hexValue 'G' = none ∧
      hexValue '`' = none ∧ hexValue 'g' = none := by decide +kernel
theorem test_listing :
    listing ⟨0x0A#8, 0x4142434445000000#128⟩ =
      "cmd=0x0A din=0x00000000000000004142434445000000".toList := by decide +kernel

/-! ### Witnesses: each statement's hypotheses hold together somewhere, clause by clause -/

/-- In a chaining operation with schedules of `k`, FA and FB zero. -/
def chaining (k : Key) (m : Mode) : State := { keyedBoth k with MODE := m }

/-- "ABCDE" and "ABCDEFGHI", 5 and 9 bytes. -/
def fiveBytes : List Byte := [0x41, 0x42, 0x43, 0x44, 0x45]
def nineBytes : List Byte := [0x41, 0x42, 0x43, 0x44, 0x45, 0x46, 0x47, 0x48, 0x49]

theorem keyedBoth_inv : (keyedBoth keyA).Inv where
  dkMatchesEk := fun _ h => ⟨expand keyA, rfl, (Option.some.inj h).symm⟩
  modeLegal := by unfold State.modeLegal; decide +kernel
  idleFeedbackZero := fun _ => ⟨rfl, rfl⟩
  ekIsExpanded := fun ek h => ⟨keyA, (Option.some.inj h).symm, by
    obtain rfl := Option.some.inj h
    decide +kernel⟩

theorem chaining_inv : (chaining keyA .ENC).Inv ∧ (chaining keyA .DEC).Inv :=
  ⟨{ dkMatchesEk := keyedBoth_inv.dkMatchesEk, modeLegal := by unfold State.modeLegal; decide +kernel,
     idleFeedbackZero := fun _ => ⟨rfl, rfl⟩, ekIsExpanded := keyedBoth_inv.ekIsExpanded },
   { dkMatchesEk := keyedBoth_inv.dkMatchesEk, modeLegal := by unfold State.modeLegal; decide +kernel,
     idleFeedbackZero := fun _ => ⟨rfl, rfl⟩, ekIsExpanded := keyedBoth_inv.ekIsExpanded }⟩

theorem witness_OpcodeMap :
    0x0C ≤ (0x0C#8).toNat ∧ 0x0C ≤ (0xFF#8).toNat ∧ ¬ 0x0C ≤ (0x0B#8).toNat := by decide

/-- The lowest and highest reserved words of each half, and the last legal word, from a state without
ILLEGAL_CMD. -/
theorem witness_IllegalWords :
    (0x0C#8).extractLsb' 4 4 = 0#4 ∧ 0xC ≤ ((0x0C#8).extractLsb' 0 4).toNat ∧
      (0x10#8).extractLsb' 4 4 ≠ 0#4 ∧ (0xFF#8).extractLsb' 4 4 ≠ 0#4 ∧
      ¬ ((0x0B#8).extractLsb' 4 4 ≠ 0#4 ∨ 0xC ≤ ((0x0B#8).extractLsb' 0 4).toNat) ∧
      State.reset.FAULT ≠ .ILLEGAL_CMD := by decide

/-- Two MUL commands that differ above bit 31 only. -/
theorem witness_UnusedDin :
    (∀ j, j < usedBits (cmdOp ⟨0x01#8, 0x112345678#128⟩) →
      (0x112345678#128).getLsbD j = (0x012345678#128).getLsbD j) ∧
      (0x112345678#128) ≠ 0x012345678#128 := by decide

theorem witness_StepRuns :
    ({ State.reset with pending := [.command ⟨0x0A#8, 1#128⟩, .reset] } : State).pending =
        .command ⟨0x0A#8, 1#128⟩ :: [.reset] ∧
      decode ⟨0x0A#8, 1#128⟩ = .ok (.block 1#64) ∧ decode ⟨0x0C#8, 0#128⟩ = .error .reservedOpcode ∧
      decodeTableWord 8 0x0B = some .endChain ∧ State.reset.pending = [] := by decide

theorem witness_OnlyReset :
    (nextOf (issue ⟨0x00#8, 0#128⟩ { keyed keyA with FAULT := .NO_DK })).map
        (fun t => (t.FAULT, t.EKV)) = some (.NO_DK, true) ∧
      ({ keyed keyA with FAULT := .NO_DK } : State).FAULT ≠ .NONE ∧
      ({ keyed keyA with FAULT := .NO_DK } : State).EKV = true ∧
      ({ State.reset with pending := [.reset] } : State).pending = .reset :: [] := by decide +kernel

/-- Each register is changed by some command. -/
theorem witness_Writers :
    (nextOf (exec (.keysched keyB) (keyedBoth keyA))).map (fun t =>
        (decide (t.EK ≠ (keyedBoth keyA).EK), decide (t.DK ≠ (keyedBoth keyA).DK))) = some (true, true) ∧
      (nextOf (exec .revsched (keyed keyA))).map (fun t => decide (t.DK ≠ (keyed keyA).DK)) = some true ∧
      (nextOf (exec (.block 1#64) (chaining keyA .ENC))).map (fun t =>
        (decide (t.FA ≠ 0#64), decide (t.FB ≠ 0#64), decide (t.DOUT ≠ 0#64))) = some (true, true, true) ∧
      (nextOf (exec .startD State.reset)).map (fun t => decide (t.MODE ≠ .IDLE)) = some true := by
  decide +kernel

/-- One command for each code, from states without a fault and then from a state with one. -/
theorem witness_Faults :
    (nextOf (issue ⟨0xFF#8, 0#128⟩ State.reset)).map State.FAULT = some .ILLEGAL_CMD ∧
      (nextOf (issue ⟨0x04#8, 0#128⟩ { State.reset with MODE := .DEC })).map State.FAULT = some .KEY_IN_USE ∧
      (nextOf (issue ⟨0x0A#8, 0#128⟩ State.reset)).map State.FAULT = some .NO_CHAIN ∧
      (nextOf (issue ⟨0x05#8, 0#128⟩ State.reset)).map State.FAULT = some .NO_EK ∧
      (nextOf (issue ⟨0x0A#8, 0#128⟩ { State.reset with MODE := .ENC })).map State.FAULT = some .NO_EK ∧
      (nextOf (issue ⟨0x07#8, 0#128⟩ State.reset)).map State.FAULT = some .NO_DK ∧
      (nextOf (issue ⟨0x0A#8, 0#128⟩ { State.reset with MODE := .DEC })).map State.FAULT = some .NO_DK ∧
      State.reset.FAULT = .NONE ∧ ({ State.reset with FAULT := .NO_EK } : State).FAULT ≠ .NONE ∧
      ({ ({ State.reset with FAULT := .NO_EK } : State) with FAULT := .NONE } : State) = State.reset := by decide

/-- The only product that truncation changes is 65536; the bounds of the corner case. -/
theorem witness_Multiplication :
    65536 * 1 % 65537 = 65536 ∧ 0x8000 * 0xFFFF % 65537 < 65536 ∧ 2 ≤ (2#16).toNat ∧ 2 ≤ (0xFFFF#16).toNat := by
  decide

theorem witness_MultiplicativeInverse :
    (1#16) ≠ 0#16 ∧ (0xFFFF#16) ≠ 0#16 ∧ 1 ≤ 1 ∧ 1 ≤ 65535 ∧ (1#16).toNat * 1 % 65537 = 1 ∧
      (2#16).toNat * 0x8001 % 65537 = 1 := by decide

theorem witness_Laws : 1 ≤ 1 ∧ 1 ≤ 65536 ∧ 65536 ≤ 65536 ∧
    (if (0#16) = 0#16 then 65536 else (0#16).toNat) = 65536 := by decide

/-- ADDINV and MULINV answer a next state at a fixed point and away from one. -/
theorem witness_Inverses :
    viewOf (exec (.addinv 0x8000#16) State.reset) = some ⟨0x8000#64, 0x00#8⟩ ∧
      viewOf (exec (.addinv 1#16) State.reset) = some ⟨0xFFFF#64, 0x00#8⟩ ∧
      viewOf (exec (.mulinv 1#16) State.reset) = some ⟨1#64, 0x00#8⟩ ∧
      viewOf (exec (.mulinv 2#16) State.reset) = some ⟨0x8001#64, 0x00#8⟩ := by decide

/-- The first and last index of each clause; the last key word of group 6 is none, its first four are. -/
theorem witness_KeySchedule :
    0 < 8 ∧ 7 < 8 ∧ 8 ≤ 8 ∧ 8 < 52 ∧ 8 ≤ 51 ∧ 51 < 52 ∧ 8 * 6 + 3 < 52 ∧ ¬ 8 * 6 + 4 < 52 ∧
      (15 + 1) % 8 = 0 ∧ (14 + 2) % 8 < 2 ∧ (15 + 2) % 8 < 2 ∧ ¬ (8 + 1) % 8 = 0 ∧ ¬ (8 + 2) % 8 < 2 := by decide

/-- A schedule that follows the index formula: that of K_S. -/
theorem witness_IndexFormula :
    (∀ j, j < 8 → wordAt (expand keyS) j = keyS.extractLsb' (112 - 16 * j) 16) ∧
      (∀ i, i < 52 → 8 ≤ i →
        wordAt (expand keyS) i =
          (wordAt (expand keyS) (if (i + 1) % 8 = 0 then i - 15 else i - 7) <<< 9) |||
            (wordAt (expand keyS) (if (i + 2) % 8 < 2 then i - 14 else i - 6) >>> 7)) := by decide +kernel

/-- KEYSCHED of one key from two IDLE states that differ, and from a state already holding its schedule. -/
theorem witness_Keysched :
    State.reset.MODE = .IDLE ∧ (keyedBoth keyB).MODE = .IDLE ∧
      (nextOf (issue ⟨0x04#8, keyA⟩ State.reset)).map State.EK = some (some (expand keyA)) ∧
      (nextOf (issue ⟨0x04#8, keyA⟩ (keyedBoth keyB))).map State.EK = some (some (expand keyA)) ∧
      (nextOf (exec (.keysched keyA) (keyed keyA))).map State.EK = some (keyed keyA).EK ∧
      (chaining keyA .ENC).MODE ≠ .IDLE ∧ (chaining keyA .DEC).MODE ≠ .IDLE := by decide +kernel

/-- The first row, a middle row and the last one. -/
theorem witness_ReverseRows : 0 ≤ 8 ∧ 0 % 8 = 0 ∧ ¬ 4 % 8 = 0 ∧ 8 ≤ 8 ∧ 8 % 8 = 0 ∧ 7 ≠ 8 := by decide

theorem witness_Revsched :
    (keyed keyA).EK = some (expand keyA) ∧ (keyed keyA).EKV = true ∧ State.reset.EKV = false ∧
      (nextOf (exec .revsched (keyed keyA))).map State.DKV = some true := by decide +kernel

/-- With a schedule, without one, and in ENC with zero feedback. -/
theorem witness_XformE :
    (chaining keyA .ENC).EK = some (expand keyA) ∧ State.reset.EKV = false ∧ (chaining keyA .ENC).EKV = true ∧
      (chaining keyA .ENC).MODE = .ENC ∧ (chaining keyA .ENC).FA = 0#64 ∧ (chaining keyA .ENC).FB = 0#64 ∧
      (viewOf (exec (.xformE 0x0000000100020003#64) (chaining keyA .ENC))) = some ⟨0x11FBED2B01986DE5#64, 0x07#8⟩ ∧
      (viewOf (exec (.block 0x0000000100020003#64) (chaining keyA .ENC))) =
        some ⟨0x11FBED2B01986DE5#64, 0x07#8⟩ := by decide +kernel

theorem witness_XformD :
    (keyedBoth keyA).DK = some (reverse (expand keyA)) ∧ (keyed keyA).DKV = false ∧ (keyedBoth keyA).DKV = true ∧
      (keyed keyA).MODE = .IDLE ∧ (nextOf (exec (.keysched keyB) (keyed keyA))).isSome = true ∧
      viewOf (andThen (exec (.xformE 0x0000000100020003#64) (keyedBoth keyA)) fun t => exec (.xformD t.DOUT) t) =
        some ⟨0x0000000100020003#64, 0x03#8⟩ := by decide +kernel

theorem witness_XformD_inv : (keyedBoth keyA).Inv ∧ (keyedBoth keyA).DKV = true :=
  ⟨keyedBoth_inv, by decide +kernel⟩

theorem witness_EndInIdle : (keyedBoth keyA).Inv ∧ (keyedBoth keyA).MODE = .IDLE := ⟨keyedBoth_inv, rfl⟩

/-- BLOCK in each mode, with and without the schedule it needs. -/
theorem witness_Block :
    State.reset.MODE = .IDLE ∧ (chaining keyA .ENC).MODE = .ENC ∧ (chaining keyA .DEC).MODE = .DEC ∧
      (chaining keyA .ENC).EK = some (expand keyA) ∧ (chaining keyA .DEC).DK = some (reverse (expand keyA)) ∧
      ({ State.reset with MODE := .ENC } : State).EKV = false ∧
      ({ State.reset with MODE := .DEC } : State).DKV = false ∧
      (nextOf (exec (.block 0#64) State.reset)).map State.MODE = some .IDLE ∧
      (nextOf (exec (.block (0#64 ^^^ 0#64)) (chaining keyA .ENC))).map State.FA = some 0#64 := by decide +kernel

/-- A step from a state with the invariants, by a command and by the reset input; and from reset under
inputs. -/
theorem witness_EveryStepKeeps :
    (nextOf (step { keyedBoth keyA with pending := [.command ⟨0x08#8, 0#128⟩] })).map State.MODE = some .ENC ∧
      (nextOf (step { keyedBoth keyA with pending := [.reset] })).map State.EKV = some false ∧
      (nextOf (runSteps 2 { State.reset with
        pending := [.command ⟨0x04#8, keyA⟩, .command ⟨0x05#8, 0#128⟩] })).map State.DKV = some true := by
  decide +kernel

theorem witness_EveryStepKeeps_inv :
    ({ keyedBoth keyA with pending := [.command ⟨0x08#8, 0#128⟩] } : State).Inv :=
  { dkMatchesEk := keyedBoth_inv.dkMatchesEk, modeLegal := by unfold State.modeLegal; decide +kernel,
    idleFeedbackZero := fun _ => ⟨rfl, rfl⟩, ekIsExpanded := keyedBoth_inv.ekIsExpanded }

/-- The third block of a stream of three, and one block on both sides. -/
theorem witness_FeedbackAsymmetry :
    (([1#64, 2#64, 3#64] : List Block).take 3 = [1#64, 2#64, 3#64]) ∧
      (match runCommands (blockCommands [1#64, 2#64, 3#64]) (State.reset.started keyA .ENC) with
        | .next r => r.douts.head?.isSome
        | .fault _ => false
        | .refused _ => false) = true ∧
      (nextOf (andThen (exec (.block 0x0000000100020003#64) (State.reset.started keyA .ENC)) fun t =>
        exec (.block t.DOUT) (State.reset.started keyA .DEC))).map State.DOUT = some 0x0000000100020003#64 := by
  decide +kernel

/-- A command in the middle of a stream, and BLOCK after it and without it, in either direction. -/
theorem witness_OtherCommands :
    (chaining keyA .ENC).MODE ≠ .IDLE ∧ (chaining keyA .ENC).EKV = true ∧ (chaining keyA .DEC).DKV = true ∧
      (nextOf (andThen (exec .revsched (chaining keyA .ENC)) (exec (.block 1#64)))).isSome = true ∧
      (nextOf (exec (.block 1#64) (chaining keyA .ENC))).isSome = true ∧
      (nextOf (andThen (exec (.mul 2#16 3#16) (chaining keyA .DEC)) (exec (.block 1#64)))).isSome = true ∧
      (nextOf (exec (.block 1#64) (chaining keyA .DEC))).isSome = true := by decide +kernel

theorem witness_Stale :
    (keyedBoth keyA).MODE = .IDLE ∧ (nextOf (exec (.keysched keyB) (keyedBoth keyA))).map State.DKV = some false ∧
      (keyed keyA).DKV = false ∧
      (nextOf (issue ⟨0x05#8, 0#128⟩ (keyed keyA))).map State.DKV = some true := by decide +kernel

/-- Block indices at both ends of a stream of 9 bytes; 3 zero bytes after 5, the most that fit; the key
lengths. -/
theorem witness_Streams :
    0 < (nineBytes.length + 7) / 8 ∧ 1 < (nineBytes.length + 7) / 8 ∧ ¬ 2 < (nineBytes.length + 7) / 8 ∧
      fiveBytes.length + 3 ≤ 8 * ((fiveBytes.length + 7) / 8) ∧
      fiveBytes.length + 0 ≤ 8 * ((fiveBytes.length + 7) / 8) ∧
      ¬ fiveBytes.length + 4 ≤ 8 * ((fiveBytes.length + 7) / 8) ∧
      keyBytes.length = 16 ∧ (0x00#8 :: keyBytes).length ≠ 16 ∧ ([] : List Byte).length ≠ 16 := by decide

/-- PROCESS from an IDLE state with a fault recorded and from reset; from a busy core; a sink that fails at
once, and one that fails at the last block; inputs of 1 and 16 bytes. -/
theorem witness_Process :
    keyBytes.length = 16 ∧ State.reset.MODE = .IDLE ∧ State.reset.FAULT = .NONE ∧
      ({ keyedBoth keyB with FAULT := .NO_DK } : State).MODE = .IDLE ∧ (chaining keyB .DEC).MODE ≠ .IDLE ∧
      0 < (streamBlocks nineBytes).length ∧ 1 < (streamBlocks nineBytes).length ∧
      ¬ 2 < (streamBlocks nineBytes).length ∧
      1 ≤ ([0x41#8] : List Byte).length ∧ (nineBytes ++ fiveBytes ++ [0x4A#8, 0x4B#8]).length = 16 ∧
      ([0x41, 0x42, 0x43, 0x44, 0x45, 0x46, 0x47, 0x48] : List Byte).length = 8 := by decide

theorem witness_Instances : (0 : Fin 2) ≠ 1 := by decide

/-- The greatest literal each operand takes, and a line that is refused. -/
theorem witness_Assembler :
    0xFFFF < 2 ^ 16 ∧ 2 ^ 128 - 1 < 2 ^ 128 ∧ 2 ^ 64 - 1 < 2 ^ 64 ∧ 0xFF < 2 ^ 8 ∧
      (AsmLine.dotCmd 0x100).wf = false := by decide

end Sys2Proof.Tests
end

section
/-! What an instruction, a command and a step can do, said once: the layer the statements about the state
rest on. -/

namespace Sys2Proof.Machine

/-! ### Taking a fault -/

/-- A fault entry touches no field but FAULT (R232). -/
theorem raise_frame {code : FaultCode} {s t : State} (h : raise code s = .next t) :
    ∃ f, t = { s with FAULT := f } := by
  obtain ⟨-, rfl⟩ | ⟨-, rfl⟩ := raise_cases h
  · exact ⟨code, rfl⟩
  · exact ⟨t.FAULT, rfl⟩

/-! ### Instructions -/

/-- `Faults i s code`: instruction `i` takes the fault `code` in state `s` (R233 to R236, in the order of
R238). -/
inductive Faults : Instr → State → FaultCode → Prop where
  | keysched (k) {s} (busy : s.MODE ≠ .IDLE) : Faults (.keysched k) s .KEY_IN_USE
  | revsched {s} (noEK : s.EK = none) : Faults .revsched s .NO_EK
  | xformE (blk) {s} (noEK : s.EK = none) : Faults (.xformE blk) s .NO_EK
  | xformD (blk) {s} (noDK : s.DK = none) : Faults (.xformD blk) s .NO_DK
  | blockIdle (raw) {s} (idle : s.MODE = .IDLE) : Faults (.block raw) s .NO_CHAIN
  | blockEnc (raw) {s} (mode : s.MODE = .ENC) (noEK : s.EK = none) : Faults (.block raw) s .NO_EK
  | blockDec (raw) {s} (mode : s.MODE = .DEC) (noDK : s.DK = none) : Faults (.block raw) s .NO_DK

/-- `Effect i s t`: `t` is a state that instruction `i` may leave behind in state `s`. One constructor for
each way an instruction does its work, with the guards it passed, and one for a fault. -/
inductive Effect : Instr → State → State → Prop where
  | nop (s) : Effect .nop s s
  | mul (a b s) : Effect (.mul a b) s (s.setDoutWord (mul a b))
  | addinv (x s) : Effect (.addinv x) s (s.setDoutWord (addinv x))
  | mulinv (x s) : Effect (.mulinv x) s (s.setDoutWord (mulinv x))
  | keysched (k) {s} (idle : s.MODE = .IDLE) :
      Effect (.keysched k) s { s with EK := some (expand k), DK := none }
  | revsched {s ek} (hek : s.EK = some ek) : Effect .revsched s { s with DK := some (reverse ek) }
  | xformE (blk) {s ek} (hek : s.EK = some ek) : Effect (.xformE blk) s (s.setDout (transform blk ek))
  | xformD (blk) {s dk} (hdk : s.DK = some dk) : Effect (.xformD blk) s (s.setDout (transform blk dk))
  | startE (s) : Effect .startE s (s.beginMode .ENC)
  | startD (s) : Effect .startD s (s.beginMode .DEC)
  | endChain (s) : Effect .endChain s (s.beginMode .IDLE)
  | blockEnc (raw) {s ek} (mode : s.MODE = .ENC) (hek : s.EK = some ek) :
      Effect (.block raw) s ((s.setDout (transform (raw ^^^ s.FA ^^^ s.FB) ek)).setFeedback
        (raw ^^^ s.FA ^^^ s.FB) (transform (raw ^^^ s.FA ^^^ s.FB) ek))
  | blockDec (raw) {s dk} (mode : s.MODE = .DEC) (hdk : s.DK = some dk) :
      Effect (.block raw) s ((s.setDout (transform raw dk ^^^ s.FA ^^^ s.FB)).setFeedback
        raw (transform raw dk ^^^ s.FA ^^^ s.FB))
  | faulted {i s t code} (hf : Faults i s code) (hr : raise code s = .next t) : Effect i s t

theorem execKeysched_effect {k : Key} {s t : State} (h : execKeysched k s = .next t) :
    Effect (.keysched k) s t := by
  obtain ⟨idle, rfl⟩ | ⟨busy, hr⟩ := execKeysched_cases h
  · exact .keysched k idle
  · exact .faulted (.keysched k busy) hr

theorem execRevsched_effect {s t : State} (h : execRevsched s = .next t) : Effect .revsched s t := by
  obtain ⟨noEK, hr⟩ | ⟨ek, hek, hu⟩ := withEK_cases h
  · exact .faulted (.revsched noEK) hr
  · exact Host.Outcome.next.inj hu ▸ .revsched hek

theorem execXformE_effect {blk : Block} {s t : State} (h : execXformE blk s = .next t) :
    Effect (.xformE blk) s t := by
  obtain ⟨noEK, hr⟩ | ⟨ek, hek, hu⟩ := withEK_cases h
  · exact .faulted (.xformE blk noEK) hr
  · exact Host.Outcome.next.inj hu ▸ .xformE blk hek

theorem execXformD_effect {blk : Block} {s t : State} (h : execXformD blk s = .next t) :
    Effect (.xformD blk) s t := by
  obtain ⟨noDK, hr⟩ | ⟨dk, hdk, hu⟩ := withDK_cases h
  · exact .faulted (.xformD blk noDK) hr
  · exact Host.Outcome.next.inj hu ▸ .xformD blk hdk

theorem execBlock_effect {raw : Block} {s t : State} (h : execBlock raw s = .next t) :
    Effect (.block raw) s t := by
  obtain ⟨idle, hr⟩ | ⟨mode, hb⟩ | ⟨mode, hb⟩ := execBlock_cases h
  · exact .faulted (.blockIdle raw idle) hr
  · obtain ⟨noEK, hr⟩ | ⟨ek, hek, hu⟩ := withEK_cases hb
    · exact .faulted (.blockEnc raw mode noEK) hr
    · exact Host.Outcome.next.inj hu ▸ .blockEnc raw mode hek
  · obtain ⟨noDK, hr⟩ | ⟨dk, hdk, hu⟩ := withDK_cases hb
    · exact .faulted (.blockDec raw mode noDK) hr
    · exact Host.Outcome.next.inj hu ▸ .blockDec raw mode hdk

/-- Everything an instruction can do. -/
theorem exec_effect {i : Instr} {s t : State} (h : exec i s = .next t) : Effect i s t := by
  cases i with
  | nop => exact Host.Outcome.next.inj h ▸ .nop s
  | mul a b => exact Host.Outcome.next.inj h ▸ .mul a b s
  | addinv x => exact Host.Outcome.next.inj h ▸ .addinv x s
  | mulinv x => exact Host.Outcome.next.inj h ▸ .mulinv x s
  | keysched k => exact execKeysched_effect h
  | revsched => exact execRevsched_effect h
  | xformE blk => exact execXformE_effect h
  | xformD blk => exact execXformD_effect h
  | startE => exact Host.Outcome.next.inj h ▸ .startE s
  | startD => exact Host.Outcome.next.inj h ▸ .startD s
  | block raw => exact execBlock_effect h
  | endChain => exact Host.Outcome.next.inj h ▸ .endChain s

/-! ### Completion -/

theorem withEK_completes {s : State} {use : Schedule → Host.Outcome State Fault Refusal}
    (hu : ∀ ek, ∃ t, use ek = .next t) : ∃ t, withEK s use = .next t := by
  cases hek : s.EK with
  | none => rw [withEK_absent hek]; exact raise_completes .NO_EK s
  | some ek => rw [withEK_present hek]; exact hu ek

theorem withDK_completes {s : State} {use : Schedule → Host.Outcome State Fault Refusal}
    (hu : ∀ dk, ∃ t, use dk = .next t) : ∃ t, withDK s use = .next t := by
  cases hdk : s.DK with
  | none => rw [withDK_absent hdk]; exact raise_completes .NO_DK s
  | some dk => rw [withDK_present hdk]; exact hu dk

theorem execKeysched_completes (k : Key) (s : State) : ∃ t, execKeysched k s = .next t := by
  unfold execKeysched
  split
  · exact ⟨_, rfl⟩
  · exact raise_completes .KEY_IN_USE s

theorem execBlock_completes (raw : Block) (s : State) : ∃ t, execBlock raw s = .next t := by
  unfold execBlock
  split
  · exact raise_completes .NO_CHAIN s
  · exact withEK_completes fun _ => ⟨_, rfl⟩
  · exact withDK_completes fun _ => ⟨_, rfl⟩

/-- Every instruction completes in every state (R275). -/
theorem exec_completes (i : Instr) (s : State) : ∃ t, exec i s = .next t := by
  cases i with
  | nop => exact ⟨_, rfl⟩
  | mul a b => exact ⟨_, rfl⟩
  | addinv x => exact ⟨_, rfl⟩
  | mulinv x => exact ⟨_, rfl⟩
  | keysched k => exact execKeysched_completes k s
  | revsched => exact withEK_completes fun _ => ⟨_, rfl⟩
  | xformE blk => exact withEK_completes fun _ => ⟨_, rfl⟩
  | xformD blk => exact withDK_completes fun _ => ⟨_, rfl⟩
  | startE => exact ⟨_, rfl⟩
  | startD => exact ⟨_, rfl⟩
  | block raw => exact execBlock_completes raw s
  | endChain => exact ⟨_, rfl⟩

/-- Every command word completes in every state, legal or not (R275). -/
theorem issue_completes (c : Command) (s : State) : ∃ t, issue c s = .next t := by
  cases hd : decode c with
  | ok i => rw [issue_of_decode_ok hd]; exact exec_completes i s
  | error e => rw [issue_of_decode_error hd]; exact raise_completes .ILLEGAL_CMD s

/-! ### Commands and steps -/

/-- Everything issuing a command can do (R60, R65). -/
theorem issue_cases {c : Command} {s t : State} (h : issue c s = .next t) :
    (∃ i, decode c = .ok i ∧ exec i s = .next t) ∨
      ∃ e, decode c = .error e ∧ raise .ILLEGAL_CMD s = .next t := by
  cases hd : decode c with
  | ok i => exact .inl ⟨i, rfl, by rwa [issue_of_decode_ok hd] at h⟩
  | error e => exact .inr ⟨e, rfl, by rwa [issue_of_decode_error hd] at h⟩

/-- Everything a step can do: wait, issue the next command, or reset (R60, R251, R260). -/
theorem step_cases {s t : State} (h : step s = .next t) :
    (s.pending = [] ∧ t = s) ∨
    (∃ c rest, s.pending = .command c :: rest ∧ issue c { s with pending := rest } = .next t) ∨
    ∃ rest, s.pending = .reset :: rest ∧ t = { State.reset with pending := rest } := by
  cases hp : s.pending with
  | nil =>
    rw [step_of_nothing_pending hp] at h
    exact .inl ⟨rfl, (Host.Outcome.next.inj h).symm⟩
  | cons e rest =>
    rw [step_of_pending hp] at h
    cases e with
    | command c => exact .inr (.inl ⟨c, rest, rfl, h⟩)
    | reset => exact .inr (.inr ⟨rest, rfl, (Host.Outcome.next.inj h).symm⟩)

end Sys2Proof.Machine
end

section
/-! The STATUS byte: where its fields lie, and their codes. -/

namespace Sys2Proof.Machine

/-- The four fields of a byte joined as R28 joins those of STATUS. -/
theorem fields_of_joined (f : BitVec 4) (m : BitVec 2) (d e : Bool) :
    (f ++ m ++ BitVec.ofBool d ++ BitVec.ofBool e).getLsbD 0 = e ∧
    (f ++ m ++ BitVec.ofBool d ++ BitVec.ofBool e).getLsbD 1 = d ∧
    (f ++ m ++ BitVec.ofBool d ++ BitVec.ofBool e).extractLsb' 2 2 = m ∧
    (f ++ m ++ BitVec.ofBool d ++ BitVec.ofBool e).extractLsb' 4 4 = f := by
  refine ⟨?_, ?_, ?_, ?_⟩
  · rw [BitVec.getLsbD_append]; simp
  · rw [BitVec.getLsbD_append, BitVec.getLsbD_append]; simp
  · rw [BitVec.extractLsb'_append_eq_of_le (by decide), BitVec.extractLsb'_append_eq_of_le (by decide)]
    exact BitVec.extractLsb'_append_eq_right
  · rw [BitVec.extractLsb'_append_eq_of_le (by decide), BitVec.extractLsb'_append_eq_of_le (by decide)]
    exact BitVec.extractLsb'_append_eq_left

theorem State.STATUS_fields (s : State) :
    s.STATUS.getLsbD 0 = s.EKV ∧ s.STATUS.getLsbD 1 = s.DKV ∧
      s.STATUS.extractLsb' 2 2 = s.MODE.bits ∧ s.STATUS.extractLsb' 4 4 = s.FAULT.code :=
  fields_of_joined s.FAULT.code s.MODE.bits s.DKV s.EKV

theorem Mode.bits_ne_reserved (m : Mode) : m.bits ≠ 0b11#2 := by
  cases m <;> decide

theorem FaultCode.code_le (f : FaultCode) : f.code.toNat ≤ 5 := by
  cases f <;> decide

/-- Settles O8: the reset state holds the table's values by its definition. -/
theorem resetValuesOfTheTable : Obligations.ResetValuesOfTheTable :=
  ⟨rfl, rfl, rfl, rfl, rfl, rfl, rfl, rfl, rfl, rfl⟩

/-- Settles O10, from the place of each field in the byte and the codes of MODE and FAULT. -/
theorem statusByteLayout : Obligations.StatusByteLayout := by
  intro s
  obtain ⟨hekv, hdkv, hmode, hfault⟩ := s.STATUS_fields
  refine ⟨hekv, hdkv, hmode, hfault, ?_, ?_⟩
  · rw [hmode]; exact s.MODE.bits_ne_reserved
  · rw [hfault]; exact s.FAULT.code_le

end Sys2Proof.Machine
end

section
/-! The four invariants of R36, at reset and along every run. -/

namespace Sys2Proof.Machine

/-- Invariant (b) is a matter of the coding of MODE, so every state meets it. -/
theorem State.modeLegal_of_any (s : State) : s.modeLegal := by
  obtain ⟨-, -, hmode, -⟩ := s.STATUS_fields
  unfold State.modeLegal
  rw [hmode]
  exact s.MODE.bits_ne_reserved

/-- The register of group 0 is the key itself (R122). -/
theorem keyRegister_zero (k : Key) : keyRegister k 0 = k := by
  apply BitVec.eq_of_getLsbD_eq
  intro j hj
  simp [keyRegister, hj]

/-- The first eight words of `expand(k)` are the words of `k` (R38), which group 0 holds unrotated. -/
theorem expand_firstWords (k : Key) (j : Fin 8) :
    (expand k)[j.val] = k.extractLsb' (112 - 16 * j.val) 16 := by
  have hdiv : j.val / 8 = 0 := Nat.div_eq_of_lt j.isLt
  have hmod : j.val % 8 = j.val := Nat.mod_eq_of_lt j.isLt
  rw [expand_getElem, hdiv, hmod, keyRegister_zero, keyWord]

/-- A change that keeps both schedules keeps the invariants when it keeps (c). -/
theorem State.Inv.of_same_schedules {s t : State} (hs : s.Inv) (hEK : t.EK = s.EK) (hDK : t.DK = s.DK)
    (hidle : t.idleFeedbackZero) : t.Inv where
  dkMatchesEk := by unfold State.dkMatchesEk; rw [hEK, hDK]; exact hs.dkMatchesEk
  modeLegal := t.modeLegal_of_any
  idleFeedbackZero := hidle
  ekIsExpanded := by unfold State.ekIsExpanded; rw [hEK]; exact hs.ekIsExpanded

/-- A fault entry keeps the invariants. -/
theorem raise_keeps_inv {code : FaultCode} {s t : State} (hs : s.Inv) (h : raise code s = .next t) :
    t.Inv := by
  obtain ⟨f, rfl⟩ := raise_frame h
  exact hs.of_same_schedules rfl rfl hs.idleFeedbackZero

/-- A new schedule drops DK, and is expanded from its key. -/
theorem State.Inv.keysched {s : State} (hs : s.Inv) (k : Key) :
    State.Inv { s with EK := some (expand k), DK := none } where
  dkMatchesEk := nofun
  modeLegal := State.modeLegal_of_any _
  idleFeedbackZero := hs.idleFeedbackZero
  ekIsExpanded := fun _ h => ⟨k, (Option.some.inj h).symm, Option.some.inj h ▸ expand_firstWords k⟩

/-- DK becomes the reverse of the EK in force. -/
theorem State.Inv.revsched {s : State} (hs : s.Inv) {ek : Schedule} (hek : s.EK = some ek) :
    State.Inv { s with DK := some (reverse ek) } where
  dkMatchesEk := fun _ h => ⟨ek, hek, (Option.some.inj h).symm⟩
  modeLegal := State.modeLegal_of_any _
  idleFeedbackZero := hs.idleFeedbackZero
  ekIsExpanded := hs.ekIsExpanded

/-- START_E, START_D and END clear the feedback, so (c) holds whatever the mode. -/
theorem State.Inv.beginMode {s : State} (hs : s.Inv) (m : Mode) : (s.beginMode m).Inv :=
  hs.of_same_schedules rfl rfl fun _ => ⟨rfl, rfl⟩

/-- A result in DOUT touches no invariant. -/
theorem State.Inv.setDout {s : State} (hs : s.Inv) (out : Block) : (s.setDout out).Inv :=
  hs.of_same_schedules rfl rfl hs.idleFeedbackZero

/-- BLOCK loads the feedback outside IDLE only, where (c) asks nothing. -/
theorem State.Inv.setFeedback {s : State} (hs : s.Inv) (a b : Block) (busy : s.MODE ≠ .IDLE) :
    (s.setFeedback a b).Inv :=
  hs.of_same_schedules rfl rfl fun idle => absurd idle busy

/-- Every instruction keeps the invariants. -/
theorem Effect.keeps_inv {i : Instr} {s t : State} (he : Effect i s t) (hs : s.Inv) : t.Inv := by
  cases he with
  | nop => exact hs
  | mul a b => exact hs.setDout _
  | addinv x => exact hs.setDout _
  | mulinv x => exact hs.setDout _
  | keysched k _ => exact hs.keysched k
  | revsched hek => exact hs.revsched hek
  | xformE blk _ => exact hs.setDout _
  | xformD blk _ => exact hs.setDout _
  | startE => exact hs.beginMode .ENC
  | startD => exact hs.beginMode .DEC
  | endChain => exact hs.beginMode .IDLE
  | blockEnc raw mode _ => exact (hs.setDout _).setFeedback _ _ (by simp [mode])
  | blockDec raw mode _ => exact (hs.setDout _).setFeedback _ _ (by simp [mode])
  | faulted _ hr => exact raise_keeps_inv hs hr

/-- Every command word keeps the invariants, legal or not. -/
theorem issue_keeps_inv {c : Command} {s t : State} (hs : s.Inv) (h : issue c s = .next t) : t.Inv := by
  obtain ⟨i, -, he⟩ | ⟨e, -, hr⟩ := issue_cases h
  · exact (exec_effect he).keeps_inv hs
  · exact raise_keeps_inv hs hr

/-- No invariant speaks of the inputs lined up. -/
theorem State.Inv.withPending {s : State} (hs : s.Inv) (inputs : List Input) :
    State.Inv { s with pending := inputs } :=
  hs.of_same_schedules rfl rfl hs.idleFeedbackZero

/-- Settles O36: without schedules (a) and (d) ask nothing, and the feedback is zero. -/
theorem resetMeetsTheInvariants : Obligations.ResetMeetsTheInvariants where
  dkMatchesEk := nofun
  modeLegal := State.reset.modeLegal_of_any
  idleFeedbackZero := fun _ => ⟨rfl, rfl⟩
  ekIsExpanded := nofun

/-- Every step keeps the invariants. -/
theorem step_keeps_inv {s t : State} (hs : s.Inv) (h : step s = .next t) : t.Inv := by
  obtain ⟨-, rfl⟩ | ⟨c, rest, -, hc⟩ | ⟨rest, -, rfl⟩ := step_cases h
  · exact hs
  · exact issue_keeps_inv (hs.withPending rest) hc
  · exact State.Inv.withPending resetMeetsTheInvariants rest

/-- Any number of steps keeps the invariants. -/
theorem runSteps_keeps_inv {n : Nat} {s t : State} (hs : s.Inv) (h : runSteps n s = .next t) : t.Inv := by
  induction n generalizing s with
  | zero => exact Host.Outcome.next.inj h ▸ hs
  | succ n ih =>
    obtain ⟨u, hu, hrest⟩ := (andThen_eq_next_iff _ _ _).mp h
    exact ih (step_keeps_inv hs hu) hrest

/-- Settles O37: the step lemma, and the induction over steps from reset. -/
theorem everyStepKeepsTheInvariants : Obligations.EveryStepKeepsTheInvariants :=
  ⟨fun _ _ => step_keeps_inv,
    fun inputs _ _ => runSteps_keeps_inv (State.Inv.withPending resetMeetsTheInvariants inputs)⟩

end Sys2Proof.Machine
end

section
/-! Who writes a register, and the cores of a platform side by side. -/

namespace Sys2Proof.Machine

/-- Settles O11, by the cases of `Effect`: each names the registers its instruction writes, the rest being kept
by the state's field lemmas, and a fault writes none of those here. -/
theorem registersHaveOnlyTheirWriters : Obligations.RegistersHaveOnlyTheirWriters := by
  intro i s t h
  cases exec_effect h with
  | faulted _ hr =>
    obtain ⟨f, rfl⟩ := raise_frame hr
    simp
  | _ => simp

/-- A command to core `i` writes the state a lone core would reach, in place `i` alone (R37). -/
theorem issueTo_of_next {n : Nat} {i : Fin n} {c : Command} {p : Platform n} {t : State}
    (h : issue c p[i.val] = .next t) : issueTo i c p = .next (p.set i.val t) := by
  simp only [issueTo, h, andThen_next]

/-- Commands to two different cores, one after the other: the second finds its own core untouched. -/
theorem issueTo_then_issueTo {n : Nat} {i j : Fin n} {c d : Command} {p : Platform n} {t u : State}
    (hij : i ≠ j) (hi : issue c p[i.val] = .next t) (hj : issue d p[j.val] = .next u) :
    andThen (issueTo i c p) (issueTo j d) = .next ((p.set i.val t).set j.val u) := by
  have hne : i.val ≠ j.val := Fin.val_ne_of_ne hij
  have hkept : (p.set i.val t)[j.val] = p[j.val] := Vector.getElem_set_ne i.isLt j.isLt hne
  rw [issueTo_of_next hi, andThen_next]
  exact issueTo_of_next (hkept ▸ hj)

/-- Settles O50: writes to two different places of the platform do not meet, so they commute. -/
theorem instancesDoNotInterfere : Obligations.InstancesDoNotInterfere := by
  intro n i j c d p hij
  have hne : i.val ≠ j.val := Fin.val_ne_of_ne hij
  obtain ⟨t, hi⟩ := issue_completes c p[i.val]
  obtain ⟨u, hj⟩ := issue_completes d p[j.val]
  constructor
  · refine ⟨p.set i.val t, issueTo_of_next hi, Vector.getElem_set_ne i.isLt j.isLt hne, ?_⟩
    rw [Vector.getElem_set_self, hi]
  · rw [issueTo_then_issueTo hij hi hj, issueTo_then_issueTo hij.symm hj hi]
    exact congrArg _ (Vector.set_comm t u hne)

end Sys2Proof.Machine
end

section
/-! What the inputs lined up have to do with a command: nothing. A step delivers the first of them, and a list
of commands delivered step by step is their run. -/

namespace Sys2Proof.Machine

/-! ### An instruction does what `Effect` says -/

theorem exec_block_of_enc {s : State} (mode : s.MODE = .ENC) (raw : Block) :
    exec (.block raw) s = blockEnc raw s := by
  simp [exec, execBlock, mode]

theorem exec_block_of_dec {s : State} (mode : s.MODE = .DEC) (raw : Block) :
    exec (.block raw) s = blockDec raw s := by
  simp [exec, execBlock, mode]

/-- An instruction that faults takes exactly the fault entry (R232). -/
theorem Faults.exec_eq {i : Instr} {s : State} {code : FaultCode} (hf : Faults i s code) :
    exec i s = raise code s := by
  cases hf with
  | keysched k busy => exact if_neg busy
  | revsched noEK => exact withEK_absent noEK _
  | xformE blk noEK => exact withEK_absent noEK _
  | xformD blk noDK => exact withDK_absent noDK _
  | blockIdle raw idle => simp [exec, execBlock, idle]
  | blockEnc raw mode noEK => exact (exec_block_of_enc mode raw).trans (withEK_absent noEK _)
  | blockDec raw mode noDK => exact (exec_block_of_dec mode raw).trans (withDK_absent noDK _)

/-- Whatever `Effect` allows is what the instruction does. -/
theorem Effect.exec_eq {i : Instr} {s t : State} (he : Effect i s t) : exec i s = .next t := by
  cases he with
  | keysched k idle => exact if_pos idle
  | revsched hek => exact withEK_present hek _
  | xformE blk hek => exact withEK_present hek _
  | xformD blk hdk => exact withDK_present hdk _
  | blockEnc raw mode hek => exact (exec_block_of_enc mode raw).trans (withEK_present hek _)
  | blockDec raw mode hdk => exact (exec_block_of_dec mode raw).trans (withDK_present hdk _)
  | faulted hf hr => exact hf.exec_eq.trans hr
  | _ => rfl

/-! ### The inputs lined up -/

/-- A fault entry does not look at the inputs lined up. -/
theorem raise_withPending {code : FaultCode} {s t : State} (h : raise code s = .next t) (q : List Input) :
    raise code { s with pending := q } = .next { t with pending := q } := by
  obtain ⟨first, rfl⟩ | ⟨later, rfl⟩ := raise_cases h
  · exact raise_first code _ first
  · exact raise_later code _ later

/-- Whether an instruction faults does not depend on the inputs lined up. -/
theorem Faults.withPending {i : Instr} {s : State} {code : FaultCode} (hf : Faults i s code)
    (q : List Input) : Faults i { s with pending := q } code := by
  cases hf <;> constructor <;> assumption

/-- What an instruction does not depend on the inputs lined up, and leaves them alone. -/
theorem Effect.withPending {i : Instr} {s t : State} (he : Effect i s t) (q : List Input) :
    Effect i { s with pending := q } { t with pending := q } := by
  cases he with
  | nop => exact .nop _
  | mul a b => exact .mul a b _
  | addinv x => exact .addinv x _
  | mulinv x => exact .mulinv x _
  | keysched k idle => exact .keysched k (s := { s with pending := q }) idle
  | revsched hek => exact .revsched (s := { s with pending := q }) hek
  | xformE blk hek => exact .xformE blk (s := { s with pending := q }) hek
  | xformD blk hdk => exact .xformD blk (s := { s with pending := q }) hdk
  | startE => exact .startE _
  | startD => exact .startD _
  | endChain => exact .endChain _
  | blockEnc raw mode hek => exact .blockEnc raw (s := { s with pending := q }) mode hek
  | blockDec raw mode hdk => exact .blockDec raw (s := { s with pending := q }) mode hdk
  | faulted hf hr => exact .faulted (hf.withPending q) (raise_withPending hr q)

/-- A command, legal or not, does the same whatever inputs are lined up behind it, and leaves them alone. -/
theorem issue_withPending {c : Command} {s t : State} (h : issue c s = .next t) (q : List Input) :
    issue c { s with pending := q } = .next { t with pending := q } := by
  obtain ⟨i, hd, he⟩ | ⟨e, hd, hr⟩ := issue_cases h
  · rw [issue_of_decode_ok hd]
    exact ((exec_effect he).withPending q).exec_eq
  · rw [issue_of_decode_error hd]
    exact raise_withPending hr q

/-- A command leaves the inputs lined up alone. -/
theorem issue_pending {c : Command} {s t : State} (h : issue c s = .next t) : t.pending = s.pending := by
  have hsame : issue c s = .next { t with pending := s.pending } := issue_withPending h s.pending
  rw [h] at hsame
  have heq : t = { t with pending := s.pending } := Host.Outcome.next.inj hsame
  rw [heq]

/-! ### Steps -/

/-- A word of the opcode table has an instruction exactly when its command decodes to it. -/
theorem decodeTableWord_eq_some_iff {nbits w : Nat} {i : Instr} :
    decodeTableWord nbits w = some i ↔ decode (Command.ofTableWord nbits w) = .ok i := by
  unfold decodeTableWord
  cases decode (Command.ofTableWord nbits w) <;> simp

/-- With a command lined up a step issues it, taken off the list (R60). -/
theorem step_of_command {s : State} {c : Command} {rest : List Input} (h : s.pending = .command c :: rest) :
    step s = issue c { s with pending := rest } :=
  step_of_pending h

/-- Settles O5, from what a step delivers and what issuing a command does. -/
theorem stepRunsTheDecodedCommand : Obligations.StepRunsTheDecodedCommand := by
  refine ⟨fun s c rest i hp hd => ?_, fun s c rest e hp hd => ?_, fun s nbits w i hw => ?_,
    fun s => step_of_nothing_pending⟩
  · rw [step_of_command hp, issue_of_decode_ok hd]
  · rw [step_of_command hp, issue_of_decode_error hd]
  · have hp : (s.withFetchWord nbits w).pending = .command (.ofTableWord nbits w) :: s.pending := rfl
    rw [step_of_command hp, issue_of_decode_ok (decodeTableWord_eq_some_iff.mp hw)]
    rfl

/-! ### Runs -/

/-- A run of commands completes, with one DOUT value for each, and leaves the inputs lined up alone. -/
theorem runCommands_completes (cs : List Command) (s : State) :
    ∃ r, runCommands cs s = .next r ∧ r.douts.length = cs.length ∧ r.state.pending = s.pending := by
  induction cs generalizing s with
  | nil => exact ⟨_, rfl, rfl, rfl⟩
  | cons c cs ih =>
    obtain ⟨t, ht⟩ := issue_completes c s
    obtain ⟨r, hr, hlen, hpend⟩ := ih t
    refine ⟨{ state := r.state, douts := t.DOUT :: r.douts }, ?_, ?_, ?_⟩
    · rw [runCommands_cons_of_next ht, hr, andThen_next]
    · exact congrArg (· + 1) hlen
    · exact hpend.trans (issue_pending ht)

/-- Stepping through a list of commands lined up reaches the state of their run. -/
theorem runSteps_of_runCommands {cs : List Command} {s : State} {r : Run} (h : runCommands cs s = .next r) :
    runSteps cs.length { s with pending := cs.map .command ++ s.pending } = .next r.state := by
  induction cs generalizing s r with
  | nil => obtain rfl := Host.Outcome.next.inj h; rfl
  | cons c cs ih =>
    obtain ⟨t, ht⟩ := issue_completes c s
    rw [runCommands_cons_of_next ht] at h
    obtain ⟨r', hr', hcons⟩ := (andThen_eq_next_iff _ _ _).mp h
    obtain rfl := Host.Outcome.next.inj hcons
    have hstep : step { s with pending := (c :: cs).map .command ++ s.pending } =
        .next { t with pending := cs.map .command ++ t.pending } :=
      (step_of_command rfl).trans (issue_pending ht ▸ issue_withPending ht _)
    rw [List.length_cons, runSteps, hstep, andThen_next]
    exact ih (r := r') hr'

/-- Settles O7: the run of the commands completes, and stepping through them reaches its state. -/
theorem pendingCommandsRunInOrder : Obligations.PendingCommandsRunInOrder := by
  intro cs rest s
  obtain ⟨r, hr, hlen, hpend⟩ := runCommands_completes cs { s with pending := rest }
  exact ⟨r, hr, hlen, hpend, runSteps_of_runCommands hr⟩

end Sys2Proof.Machine
end

section
/-! The decryption schedule goes with the encryption schedule it was made from (R53). -/

namespace Sys2Proof.Machine

/-- KEYSCHED from an IDLE state leaves no decryption schedule behind (R124). -/
theorem execKeysched_DK_of_idle {k : Key} {s t : State} (idle : s.MODE = .IDLE)
    (h : execKeysched k s = .next t) : t.DK = none := by
  obtain ⟨-, rfl⟩ | ⟨busy, -⟩ := execKeysched_cases h
  · rfl
  · exact absurd idle busy

/-- REVSCHED that leaves a decryption schedule where there was none made it from the EK in force (R144). -/
theorem execRevsched_DK_of_absent {s t : State} (h : execRevsched s = .next t) (absent : s.DK = none)
    (present : t.DK ≠ none) : ∃ ek, s.EK = some ek ∧ t.DK = some (reverse ek) := by
  obtain ⟨-, hr⟩ | ⟨ek, hek, hu⟩ := withEK_cases h
  · obtain ⟨f, rfl⟩ := raise_frame hr
    exact absurd absent present
  · exact ⟨ek, hek, Host.Outcome.next.inj hu ▸ rfl⟩

/-- The one command that makes a decryption schedule where there was none is REVSCHED, from the EK in force. -/
theorem issue_makes_DK {c : Command} {s t : State} (h : issue c s = .next t) (absent : s.DK = none)
    (present : t.DK ≠ none) :
    decode c = .ok .revsched ∧ ∃ ek, s.EK = some ek ∧ t.DK = some (reverse ek) := by
  obtain ⟨i, hd, he⟩ | ⟨e, -, hr⟩ := issue_cases h
  · obtain ⟨-, hDK, -⟩ := registersHaveOnlyTheirWriters i s t he
    obtain rfl | ⟨-, hnone⟩ := hDK (absent ▸ present)
    · exact ⟨hd, execRevsched_DK_of_absent he absent present⟩
    · exact absurd hnone present
  · obtain ⟨f, rfl⟩ := raise_frame hr
    exact absurd absent present

/-- Settles O40: KEYSCHED leaves DK without a value, which both its readers refuse and REVSCHED alone ends. -/
theorem staleDecryptionScheduleIsRefused : Obligations.StaleDecryptionScheduleIsRefused := by
  constructor
  · intro k s t idle h
    have absent : t.DK = none := execKeysched_DK_of_idle idle h
    exact ⟨t.DKV_eq_false_iff.mpr absent, fun blk => (Faults.xformD blk absent).exec_eq,
      fun raw => (Faults.blockDec raw (t.beginMode_MODE .DEC) absent).exec_eq⟩
  · intro c s t h absent present
    obtain ⟨dk, hdk⟩ := t.DKV_eq_true_iff.mp present
    exact issue_makes_DK h (s.DKV_eq_false_iff.mp absent) (by simp [hdk])

end Sys2Proof.Machine
end

section
/-! Bytes of blocks and keys, the first one most significant (R41, R42). -/

namespace Sys2Proof.Machine

/-! ### The last byte and the last word of a value -/

theorem extractLsb'_append_byte_above {n : Nat} (start len : Nat) (x : BitVec n) (b : Byte) :
    (x ++ b).extractLsb' (start + 8) len = x.extractLsb' start len := by
  rw [BitVec.extractLsb'_append_eq_of_le (Nat.le_add_left 8 start), Nat.add_sub_cancel]

theorem extractLsb'_append_word {n : Nat} (x : BitVec n) (a b : Byte) :
    (x ++ a ++ b).extractLsb' 0 16 = a ++ b := by
  rw [show x ++ a ++ b = x ++ (a ++ b) from BitVec.append_assoc]
  exact BitVec.extractLsb'_append_eq_right

theorem extractLsb'_append_next_byte {n : Nat} (start len : Nat) (x : BitVec n) :
    x.extractLsb' (start + 8) len ++ x.extractLsb' start 8 = x.extractLsb' start (len + 8) :=
  BitVec.extractLsb'_append_extractLsb'_eq_extractLsb' rfl

/-! ### Blocks -/

theorem blockOfBytes_eight (b0 b1 b2 b3 b4 b5 b6 b7 : Byte) :
    blockOfBytes [b0, b1, b2, b3, b4, b5, b6, b7] = b0 ++ b1 ++ b2 ++ b3 ++ b4 ++ b5 ++ b6 ++ b7 := by
  simp only [blockOfBytes, ofBytesBE, List.foldl_cons, List.foldl_nil, BitVec.zero_shiftLeft, BitVec.zero_or,
    ← BitVec.setWidth_append_eq_shiftLeft_setWidth_or]
  exact BitVec.setWidth_eq _

theorem bytesOfBlock_append (b0 b1 b2 b3 b4 b5 b6 b7 : Byte) :
    bytesOfBlock (b0 ++ b1 ++ b2 ++ b3 ++ b4 ++ b5 ++ b6 ++ b7) = [b0, b1, b2, b3, b4, b5, b6, b7] := by
  simp only [bytesOfBlock, extractLsb'_append_byte_above, BitVec.extractLsb'_append_eq_right,
    BitVec.extractLsb'_eq_self]

theorem quadOfBlock_append (b0 b1 b2 b3 b4 b5 b6 b7 : Byte) :
    quadOfBlock (b0 ++ b1 ++ b2 ++ b3 ++ b4 ++ b5 ++ b6 ++ b7) = ⟨b0 ++ b1, b2 ++ b3, b4 ++ b5, b6 ++ b7⟩ := by
  simp only [quadOfBlock, extractLsb'_append_byte_above, extractLsb'_append_word, BitVec.extractLsb'_eq_self]

/-- Putting together the bytes of a block gives it back (R41). -/
@[simp] theorem blockOfBytes_bytesOfBlock (blk : Block) : blockOfBytes (bytesOfBlock blk) = blk := by
  rw [bytesOfBlock, blockOfBytes_eight]
  simp only [extractLsb'_append_next_byte]
  exact BitVec.extractLsb'_eq_self

/-! ### Keys -/

theorem keyOfBytes_sixteen (k0 k1 k2 k3 k4 k5 k6 k7 k8 k9 k10 k11 k12 k13 k14 k15 : Byte) :
    keyOfBytes [k0, k1, k2, k3, k4, k5, k6, k7, k8, k9, k10, k11, k12, k13, k14, k15] =
      k0 ++ k1 ++ k2 ++ k3 ++ k4 ++ k5 ++ k6 ++ k7 ++ k8 ++ k9 ++ k10 ++ k11 ++ k12 ++ k13 ++ k14 ++ k15 := by
  simp only [keyOfBytes, ofBytesBE, List.foldl_cons, List.foldl_nil, BitVec.zero_shiftLeft, BitVec.zero_or,
    ← BitVec.setWidth_append_eq_shiftLeft_setWidth_or]
  exact BitVec.setWidth_eq _

/-- `expand(k)` begins with the words of `k` in order (R38). -/
theorem take_eight_expand (k : Key) :
    (expand k).toList.take 8 =
      [k.extractLsb' 112 16, k.extractLsb' 96 16, k.extractLsb' 80 16, k.extractLsb' 64 16,
        k.extractLsb' 48 16, k.extractLsb' 32 16, k.extractLsb' 16 16, k.extractLsb' 0 16] := by
  change _ = List.ofFn fun j : Fin 8 => k.extractLsb' (112 - 16 * j.val) 16
  refine List.ext_getElem (by simp) fun j hj _ => ?_
  have hlt : j < 8 := by simpa using hj
  rw [List.getElem_take, Vector.getElem_toList, List.getElem_ofFn]
  exact expand_firstWords k ⟨j, hlt⟩

/-- Settles O41, from the value of the bytes put together and the fields it is cut into. -/
theorem blocksAndKeysAreBigEndian : Obligations.BlocksAndKeysAreBigEndian := by
  refine ⟨fun b0 b1 b2 b3 b4 b5 b6 b7 => ?_,
    fun blk => ⟨blockOfQuad_quadOfBlock blk, blockOfBytes_bytesOfBlock blk⟩,
    fun k0 k1 k2 k3 k4 k5 k6 k7 k8 k9 k10 k11 k12 k13 k14 k15 => ?_⟩
  · rw [blockOfBytes_eight]
    exact ⟨rfl, quadOfBlock_append .., bytesOfBlock_append ..⟩
  · rw [keyOfBytes_sixteen]
    refine ⟨rfl, ?_⟩
    rw [take_eight_expand]
    simp only [extractLsb'_append_byte_above, extractLsb'_append_word, BitVec.extractLsb'_eq_self]

end Sys2Proof.Machine
end

section
/-! Cutting a byte stream into blocks (R44): how `chunksOf` and `padStream` go 8 bytes at a time. -/

namespace Sys2Proof.Machine

/-! ### Eight bytes at a time -/

/-- Induction along the cutting of a stream: nothing, a last chunk of fewer than 8 bytes, 8 bytes in front. -/
theorem chunk_induction {P : List Byte → Prop} (nil : P [])
    (short : ∀ s, s ≠ [] → s.length < 8 → P s)
    (full : ∀ chunk rest, chunk.length = 8 → P rest → P (chunk ++ rest)) (s : List Byte) : P s := by
  by_cases hnil : s = []
  · exact hnil ▸ nil
  by_cases hlt : s.length < 8
  · exact short s hnil hlt
  · have hlen : (s.take 8).length = 8 := List.length_take_of_le (by omega)
    rw [← List.take_append_drop 8 s]
    exact full _ _ hlen (chunk_induction nil short full (s.drop 8))
termination_by s.length
decreasing_by rw [List.length_drop]; omega

@[simp] theorem chunksOf_nil : chunksOf [] = [] := rfl

/-- A chunk of fewer than 8 bytes is the last one (R210). -/
theorem chunksOf_short {s : List Byte} (hnil : s ≠ []) (hlt : s.length < 8) : chunksOf s = [s] := by
  unfold chunksOf
  split
  · exact absurd rfl hnil
  · simp only [List.length_cons] at hlt
    omega
  · rfl

/-- The first 8 bytes are a chunk of their own (R210). -/
theorem chunksOf_full {chunk : List Byte} (h : chunk.length = 8) (rest : List Byte) :
    chunksOf (chunk ++ rest) = chunk :: chunksOf rest := by
  match chunk, h with
  | [_, _, _, _, _, _, _, _], _ => rfl

theorem length_chunksOf (s : List Byte) : (chunksOf s).length = (s.length + 7) / 8 := by
  induction s using chunk_induction with
  | nil => rfl
  | short s hnil hlt =>
    have := List.length_pos_of_ne_nil hnil
    rw [chunksOf_short hnil hlt, List.length_singleton]
    omega
  | full chunk rest h ih =>
    rw [chunksOf_full h, List.length_cons, ih, List.length_append, h]
    omega

/-- Chunk `i` is bytes `8i .. 8i+7`, as far as the stream goes (R44). -/
theorem getElem?_chunksOf (s : List Byte) (i : Nat) (h : 8 * i < s.length) :
    (chunksOf s)[i]? = some ((s.drop (8 * i)).take 8) := by
  induction s using chunk_induction generalizing i with
  | nil => simp at h
  | short s hnil hlt =>
    obtain rfl : i = 0 := by omega
    simp [chunksOf_short hnil hlt, List.take_of_length_le hlt.le]
  | full chunk rest hc ih =>
    rw [chunksOf_full hc]
    cases i with
    | zero => simp [← hc]
    | succ i =>
      rw [List.length_append, hc] at h
      have hdrop : (chunk ++ rest).drop (8 * (i + 1)) = rest.drop (8 * i) := by
        rw [List.drop_append, List.drop_of_length_le (by omega), hc]
        simp [Nat.mul_succ]
      rw [hdrop, List.getElem?_cons_succ]
      exact ih i (by omega)

/-! ### Zero padding -/

theorem padChunk_of_full {chunk : List Byte} (h : chunk.length = 8) : padChunk chunk = chunk := by
  simp [padChunk, h]

theorem length_padChunk {chunk : List Byte} (h : chunk.length ≤ 8) : (padChunk chunk).length = 8 := by
  rw [padChunk, List.length_append, List.length_replicate]
  omega

theorem length_padStream (s : List Byte) : (padStream s).length = 8 * ((s.length + 7) / 8) := by
  rw [padStream, List.length_append, List.length_replicate]
  omega

/-- A stream of one short chunk is padded as that chunk (R44, R210). -/
theorem padStream_short {s : List Byte} (hnil : s ≠ []) (hlt : s.length < 8) :
    padStream s = padChunk s := by
  have hpos := List.length_pos_of_ne_nil hnil
  have hone : (s.length + 7) / 8 = 1 := by omega
  rw [padStream, padChunk, hone]

/-- Padding a stream leaves its first 8 bytes alone (R44). -/
theorem padStream_full {chunk : List Byte} (h : chunk.length = 8) (rest : List Byte) :
    padStream (chunk ++ rest) = chunk ++ padStream rest := by
  have hzeros : 8 * ((8 + rest.length + 7) / 8) - (8 + rest.length) =
      8 * ((rest.length + 7) / 8) - rest.length := by omega
  rw [padStream, padStream, List.length_append, h, hzeros, List.append_assoc]

/-- Padding the chunks of a stream gives the chunks of the padded stream (R44). -/
theorem map_padChunk_chunksOf (s : List Byte) : (chunksOf s).map padChunk = chunksOf (padStream s) := by
  induction s using chunk_induction with
  | nil => rfl
  | short s hnil hlt =>
    have hcut := chunksOf_full (length_padChunk hlt.le) []
    rw [List.append_nil, chunksOf_nil] at hcut
    rw [chunksOf_short hnil hlt, padStream_short hnil hlt, hcut]
    rfl
  | full chunk rest h ih =>
    rw [chunksOf_full h, padStream_full h, chunksOf_full h, List.map_cons, ih, padChunk_of_full h]

/-- The blocks of a stream are the chunks of its padded form, read big-endian (R44). -/
theorem streamBlocks_eq_map_chunksOf_padStream (s : List Byte) :
    streamBlocks s = (chunksOf (padStream s)).map blockOfBytes := by
  rw [← map_padChunk_chunksOf, List.map_map]
  rfl

/-- Zero bytes appended within the last chunk do not change the padded stream. -/
theorem padStream_append_zeros {s : List Byte} {j : Nat} (h : s.length + j ≤ 8 * ((s.length + 7) / 8)) :
    padStream (s ++ List.replicate j 0x00#8) = padStream s := by
  have hceil : (s.length + j + 7) / 8 = (s.length + 7) / 8 := by omega
  have hzeros : j + (8 * ((s.length + 7) / 8) - (s.length + j)) =
      8 * ((s.length + 7) / 8) - s.length := by omega
  rw [padStream, padStream, List.length_append, List.length_replicate, hceil, List.append_assoc,
    List.replicate_append_replicate, hzeros]

/-- Settles O42, from the count and the place of the chunks of the padded stream. -/
theorem streamIsCutIntoPaddedBlocks : Obligations.StreamIsCutIntoPaddedBlocks := by
  intro s
  refine ⟨?_, length_padStream s, List.take_left, fun b hb => ?_, fun i hi => ?_⟩
  · rw [streamBlocks, List.length_map, length_chunksOf]
  · rw [padStream, List.drop_left] at hb
    exact List.eq_of_mem_replicate hb
  · have hin : 8 * i < (padStream s).length := by rw [length_padStream]; omega
    rw [streamBlocks_eq_map_chunksOf_padStream, List.getElem?_map, getElem?_chunksOf _ i hin]
    rfl

/-! ### PROCESS sees the padded stream alone -/

/-- The loop of PROCESS ends alike after a last chunk of fewer than 8 bytes and after the same chunk padded,
for then it finds the end of the stream (R210). -/
theorem processLoop_padChunk {chunk : List Byte} (hnil : chunk ≠ []) (hlt : chunk.length < 8)
    (room : Option Nat) (out : List Byte) (s : State) :
    processLoop [chunk] room out s = processLoop [padChunk chunk] room out s := by
  have hlen := length_padChunk hlt.le
  have hpad : padChunk chunk ≠ [] := List.ne_nil_of_length_pos (by omega)
  simp [processLoop, hnil, hlt, hpad, hlen, padChunk_of_full hlen]

/-- One full chunk in front: the loop writes its block and goes on (R210). -/
theorem processLoop_full {chunk : List Byte} (h : chunk.length = 8) (reads : List (List Byte))
    (room : Option Nat) (out : List Byte) (s : State) :
    processLoop (chunk :: reads) room out s =
      andThen (issueInstr (.block (blockOfBytes chunk)) s) fun t =>
        if room = some 0 then finishWith (.failure .WriteFailure) (Config.sinkAfterFailure out) t
        else processLoop reads (room.map (· - 1)) (out ++ bytesOfBlock t.DOUT) t := by
  have hnil : chunk ≠ [] := List.ne_nil_of_length_pos (by omega)
  simp [processLoop, hnil, h, padChunk_of_full h]

/-- The loop of PROCESS does the same for a stream and for its padded form. -/
theorem processLoop_padStream (s : List Byte) (room : Option Nat) (out : List Byte) (t : State) :
    processLoop (chunksOf s) room out t = processLoop (chunksOf (padStream s)) room out t := by
  rw [← map_padChunk_chunksOf]
  induction s using chunk_induction generalizing room out t with
  | nil => rfl
  | short s hnil hlt =>
    rw [chunksOf_short hnil hlt]
    exact processLoop_padChunk hnil hlt room out t
  | full chunk rest h ih =>
    rw [chunksOf_full h, List.map_cons, padChunk_of_full h, processLoop_full h, processLoop_full h]
    simp only [ih]

/-- Two sources that the loop cannot tell apart give the same PROCESS. -/
theorem process_congr_source {src src' : Source}
    (h : ∀ room s, processLoop src.reads room [] s = processLoop src'.reads room [] s)
    (key : List Byte) (dir : Direction) (sink : Option Sink) (s : State) :
    process key dir (some src) sink s = process key dir (some src') sink s := by
  cases sink <;> simp only [process, processFrom, h]

/-- Settles O43: the loop sees the padded stream alone, and both streams have the same one. -/
theorem paddingIsNotRecorded : Obligations.PaddingIsNotRecorded := by
  intro key dir sink s bytes j hj
  refine process_congr_source (fun room t => ?_) key dir sink s
  calc processLoop (chunksOf (bytes ++ List.replicate j 0x00#8)) room [] t
      = processLoop (chunksOf (padStream (bytes ++ List.replicate j 0x00#8))) room [] t :=
        processLoop_padStream _ room [] t
    _ = processLoop (chunksOf (padStream bytes)) room [] t := by rw [padStream_append_zeros hj]
    _ = processLoop (chunksOf bytes) room [] t := (processLoop_padStream bytes room [] t).symm

end Sys2Proof.Machine
end

section
/-! Decoding and encoding: one equation for each row of the opcode map, and where a command's operands lie in
`din`. -/

namespace Sys2Proof.Machine

/-! ### The rows of the opcode map -/

@[simp] theorem decode_nop (d : BitVec 128) : decode ⟨0x00#8, d⟩ = .ok .nop := rfl
@[simp] theorem decode_mul (d : BitVec 128) :
    decode ⟨0x01#8, d⟩ = .ok (.mul (dinWordHi d) (dinWordLo d)) := rfl
@[simp] theorem decode_addinv (d : BitVec 128) : decode ⟨0x02#8, d⟩ = .ok (.addinv (dinWordLo d)) := rfl
@[simp] theorem decode_mulinv (d : BitVec 128) : decode ⟨0x03#8, d⟩ = .ok (.mulinv (dinWordLo d)) := rfl
@[simp] theorem decode_keysched (d : BitVec 128) : decode ⟨0x04#8, d⟩ = .ok (.keysched (dinKey d)) := rfl
@[simp] theorem decode_revsched (d : BitVec 128) : decode ⟨0x05#8, d⟩ = .ok .revsched := rfl
@[simp] theorem decode_xformE (d : BitVec 128) : decode ⟨0x06#8, d⟩ = .ok (.xformE (dinBlock d)) := rfl
@[simp] theorem decode_xformD (d : BitVec 128) : decode ⟨0x07#8, d⟩ = .ok (.xformD (dinBlock d)) := rfl
@[simp] theorem decode_startE (d : BitVec 128) : decode ⟨0x08#8, d⟩ = .ok .startE := rfl
@[simp] theorem decode_startD (d : BitVec 128) : decode ⟨0x09#8, d⟩ = .ok .startD := rfl
@[simp] theorem decode_block (d : BitVec 128) : decode ⟨0x0A#8, d⟩ = .ok (.block (dinBlock d)) := rfl
@[simp] theorem decode_endChain (d : BitVec 128) : decode ⟨0x0B#8, d⟩ = .ok .endChain := rfl

/-- A command decodes only to an instruction of its own word (R62). -/
theorem cmd_of_decode {c : Command} {i : Instr} (h : decode c = .ok i) : c.cmd = opcode i := by
  unfold decode at h
  split at h <;> cases h <;> assumption

/-! ### Operands in din -/

/-- What is placed in the low bits of `din` is read back there (R63, R67). -/
theorem extractLsb'_zero_setWidth {w : Nat} (hw : w ≤ 128) (x : BitVec w) :
    (x.setWidth 128).extractLsb' 0 w = x := by
  rw [BitVec.extractLsb'_setWidth_of_le (by omega), BitVec.extractLsb'_eq_self]

/-- The low `w` bits of `din` hold `x` exactly when masking out all others leaves `x`. -/
theorem extractLsb'_zero_eq_iff {w : Nat} (hw : w ≤ 128) (d : BitVec 128) (x : BitVec w) :
    d.extractLsb' 0 w = x ↔ d &&& (BitVec.allOnes w).setWidth 128 = x.setWidth 128 := by
  have hmask : d &&& (BitVec.allOnes w).setWidth 128 = (d.extractLsb' 0 w).setWidth 128 := by
    ext j hj
    simp [Bool.and_comm, BitVec.getLsbD_eq_getElem hj]
  rw [hmask]
  refine ⟨congrArg _, fun h => ?_⟩
  have hlow := congrArg (BitVec.extractLsb' 0 w) h
  rwa [extractLsb'_zero_setWidth hw, extractLsb'_zero_setWidth hw] at hlow

/-- Two words lie side by side exactly when each is in its place (R63). -/
theorem dinWords_eq_iff (d : BitVec 128) (a b : Word) :
    dinWordHi d = a ∧ dinWordLo d = b ↔ d.extractLsb' 0 32 = a ++ b := by
  have hsplit : dinWordHi d ++ dinWordLo d = d.extractLsb' 0 32 :=
    BitVec.extractLsb'_append_extractLsb'_eq_extractLsb' rfl
  rw [← hsplit]
  constructor
  · rintro ⟨rfl, rfl⟩
    rfl
  · intro h
    have hhi := congrArg (BitVec.extractLsb' 16 16) h
    have hlo := congrArg (BitVec.extractLsb' 0 16) h
    rw [BitVec.extractLsb'_append_eq_left, BitVec.extractLsb'_append_eq_left] at hhi
    rw [BitVec.extractLsb'_append_eq_right, BitVec.extractLsb'_append_eq_right] at hlo
    exact ⟨hhi, hlo⟩

theorem dinWords_dinOfWords (a b : Word) :
    dinWordHi (dinOfWords a b) = a ∧ dinWordLo (dinOfWords a b) = b :=
  (dinWords_eq_iff _ a b).mpr (extractLsb'_zero_setWidth (by decide) (a ++ b))

@[simp] theorem dinWordHi_dinOfWords (a b : Word) : dinWordHi (dinOfWords a b) = a :=
  (dinWords_dinOfWords a b).left

@[simp] theorem dinWordLo_dinOfWords (a b : Word) : dinWordLo (dinOfWords a b) = b :=
  (dinWords_dinOfWords a b).right

@[simp] theorem dinWordLo_dinOfWord (x : Word) : dinWordLo (dinOfWord x) = x :=
  extractLsb'_zero_setWidth (by decide) x

@[simp] theorem dinBlock_dinOfBlock (blk : Block) : dinBlock (dinOfBlock blk) = blk :=
  extractLsb'_zero_setWidth (by decide) blk

/-- The operand bits are the low bits of `din`, as many as the operand table gives the word (R63). -/
theorem operandMask_eq (i : Instr) :
    operandMask i = (BitVec.allOnes (usedBits (cmdOp (encode i)))).setWidth 128 := by
  cases i <;> rfl

/-- A command with the word of `i` decodes to `i` exactly when its operand bits are those of `i`. -/
theorem decode_opcode_eq_iff (i : Instr) (d : BitVec 128) :
    decode ⟨opcode i, d⟩ = .ok i ↔ d &&& operandMask i = encodeDin i := by
  rw [operandMask_eq]
  cases i with
  | mul a b =>
    rw [opcode, decode_mul, Except.ok.injEq, Instr.mul.injEq, dinWords_eq_iff]
    exact extractLsb'_zero_eq_iff (by decide) d (a ++ b)
  | addinv x =>
    rw [opcode, decode_addinv, Except.ok.injEq, Instr.addinv.injEq]
    exact extractLsb'_zero_eq_iff (by decide) d x
  | mulinv x =>
    rw [opcode, decode_mulinv, Except.ok.injEq, Instr.mulinv.injEq]
    exact extractLsb'_zero_eq_iff (by decide) d x
  | keysched k =>
    rw [opcode, decode_keysched, Except.ok.injEq, Instr.keysched.injEq]
    have hall : d &&& BitVec.setWidth 128 (BitVec.allOnes 128) = d := BitVec.and_allOnes
    exact hall.symm ▸ Iff.rfl
  | xformE blk =>
    rw [opcode, decode_xformE, Except.ok.injEq, Instr.xformE.injEq]
    exact extractLsb'_zero_eq_iff (by decide) d blk
  | xformD blk =>
    rw [opcode, decode_xformD, Except.ok.injEq, Instr.xformD.injEq]
    exact extractLsb'_zero_eq_iff (by decide) d blk
  | block raw =>
    rw [opcode, decode_block, Except.ok.injEq, Instr.block.injEq]
    exact extractLsb'_zero_eq_iff (by decide) d raw
  | _ => exact iff_of_true rfl BitVec.and_zero

/-- A command decodes to an instruction exactly when its word and its operand bits are those of the
instruction (R62, R63). -/
theorem decode_eq_ok_iff {c : Command} {i : Instr} :
    decode c = .ok i ↔ c.cmd = opcode i ∧ c.din &&& operandMask i = encodeDin i := by
  obtain ⟨w, d⟩ := c
  constructor
  · intro h
    obtain rfl : w = opcode i := cmd_of_decode h
    exact ⟨rfl, (decode_opcode_eq_iff i d).mp h⟩
  · rintro ⟨rfl, hd⟩
    exact (decode_opcode_eq_iff i d).mpr hd

/-- Decoding what the encoder writes gives the instruction back. -/
@[simp] theorem decode_encode (i : Instr) : decode (encode i) = .ok i := by
  cases i with
  | keysched k => rfl
  | _ => simp [encode, opcode, encodeDin]

/-- Settles O2, by the row of each instruction: the word fixes the row, and the masked bits its operands. -/
theorem decodeAndEncodeAgree : Obligations.DecodeAndEncodeAgree :=
  ⟨decode_encode, fun _ _ => decode_eq_ok_iff⟩

end Sys2Proof.Machine
end

section
/-! The words without a meaning, and the one word that does nothing. -/

namespace Sys2Proof.Machine

/-! ### Illegal words -/

/-- The words from 0x0C up are the ones without a meaning (R62, R65). -/
theorem decode_eq_error_iff {c : Command} : (∃ e, decode c = .error e) ↔ 0x0C ≤ c.cmd.toNat := by
  constructor
  · rintro ⟨e, h⟩
    unfold decode at h
    split at h <;> cases h
    simp only [imp_false, ← BitVec.toNat_inj, BitVec.toNat_ofNat] at *
    omega
  · intro hw
    cases hd : decode c with
    | error e => exact ⟨e, rfl⟩
    | ok i =>
      have hlt : (opcode i).toNat < 0x0C := by cases i <;> simp [opcode]
      rw [cmd_of_decode hd] at hw
      omega

/-- Settles O1: the rows, and every word from 0x0C up without one. -/
theorem opcodeMapOfTheTwelveCommands : Obligations.OpcodeMapOfTheTwelveCommands := fun d =>
  ⟨decode_nop d, decode_mul d, decode_addinv d, decode_mulinv d, decode_keysched d, decode_revsched d,
    decode_xformE d, decode_xformD d, decode_startE d, decode_startD d, decode_block d, decode_endChain d,
    fun _ hw => decode_eq_error_iff.mpr hw⟩

/-- Upper bits that are not zero, or an opcode from 0xC up, make a word of 0x0C or more, and nothing else
does (R65). -/
theorem reservedWord_iff (w : BitVec 8) :
    w.extractLsb' 4 4 ≠ 0#4 ∨ 0xC ≤ (w.extractLsb' 0 4).toNat ↔ 0x0C ≤ w.toNat := by
  have hw := w.isLt
  rw [Ne, ← BitVec.toNat_inj, BitVec.extractLsb'_toNat, BitVec.extractLsb'_toNat, Nat.shiftRight_eq_div_pow,
    Nat.shiftRight_zero, BitVec.toNat_zero]
  omega

/-! ### Faults of an instruction -/

/-- No instruction takes the fault of an illegal word: its own faults are R233 to R236. -/
theorem Faults.code_ne_illegal {i : Instr} {s : State} {code : FaultCode} (hf : Faults i s code) :
    code ≠ .ILLEGAL_CMD := by
  cases hf <;> decide

theorem Faults.code_ne_none {i : Instr} {s : State} {code : FaultCode} (hf : Faults i s code) :
    code ≠ .NONE := by
  cases hf <;> decide

/-- An instruction never records ILLEGAL_CMD (R237). -/
theorem Effect.fault_ne_illegal {i : Instr} {s t : State} (he : Effect i s t)
    (hs : s.FAULT ≠ .ILLEGAL_CMD) : t.FAULT ≠ .ILLEGAL_CMD := by
  cases he with
  | faulted hf hr =>
    obtain ⟨-, rfl⟩ | ⟨-, rfl⟩ := raise_cases hr
    · exact hf.code_ne_illegal
    · exact hs
  | _ => exact hs

/-! ### The word that does nothing -/

/-- A state in which every command but NOP does something: no schedule, a chaining operation under way, no
fault yet, and a feedback and a DOUT value that no START and no word leaves. -/
def responsive : State :=
  { State.reset with MODE := .ENC, FA := 1#64, DOUT := BitVec.allOnes 64 }

theorem setDoutWord_ne_responsive (r : Word) : responsive.setDoutWord r ≠ responsive := by
  intro h
  have hdout : (r.setWidth 64).toNat = (BitVec.allOnes 64).toNat := congrArg (fun t => t.DOUT.toNat) h
  have hr := r.isLt
  rw [BitVec.toNat_setWidth_of_le (by decide), BitVec.toNat_allOnes] at hdout
  omega

theorem beginMode_ne_responsive (m : Mode) : responsive.beginMode m ≠ responsive := fun h =>
  absurd (congrArg State.FA h) (by decide : 0#64 ≠ 1#64)

theorem raise_responsive_ne {code : FaultCode} (hc : code ≠ .NONE) :
    raise code responsive ≠ .next responsive := by
  intro h
  obtain ⟨-, ht⟩ | ⟨hfault, -⟩ := raise_cases h
  · exact hc (congrArg State.FAULT ht).symm
  · exact hfault rfl

/-- NOP alone leaves that state as it is (R197). -/
theorem Effect.eq_nop_of_responsive {i : Instr} {t : State} (he : Effect i responsive t)
    (ht : t = responsive) : i = .nop := by
  cases he with
  | nop => rfl
  | mul a b => exact absurd ht (setDoutWord_ne_responsive _)
  | addinv x => exact absurd ht (setDoutWord_ne_responsive _)
  | mulinv x => exact absurd ht (setDoutWord_ne_responsive _)
  | startE => exact absurd ht (beginMode_ne_responsive _)
  | startD => exact absurd ht (beginMode_ne_responsive _)
  | endChain => exact absurd ht (beginMode_ne_responsive _)
  | faulted hf hr => exact absurd (ht ▸ hr) (raise_responsive_ne hf.code_ne_none)
  | keysched k idle => cases idle
  | revsched hek => cases hek
  | xformE blk hek => cases hek
  | xformD blk hdk => cases hdk
  | blockEnc raw mode hek => cases hek
  | blockDec raw mode hdk => cases hdk

/-- The word 0x00 is the only one that does nothing in every state (R197). -/
theorem issue_idle_iff (c : Command) : (∀ s, issue c s = .next s) ↔ c.cmd = 0x00#8 := by
  constructor
  · intro h
    obtain ⟨i, hd, he⟩ | ⟨e, -, hr⟩ := issue_cases (h responsive)
    · obtain rfl := (exec_effect he).eq_nop_of_responsive rfl
      exact cmd_of_decode hd
    · exact absurd hr (raise_responsive_ne (by decide))
  · obtain ⟨w, d⟩ := c
    rintro rfl s
    exact issue_of_decode_ok (decode_nop d) s

/-- Settles O3: the reserved words decode to an error, the others to an instruction, which records no
ILLEGAL_CMD. -/
theorem illegalWordsChangeOnlyTheFaultCode : Obligations.IllegalWordsChangeOnlyTheFaultCode := by
  refine ⟨fun c s hill => ?_, fun c s hleg => ?_, issue_idle_iff⟩
  · obtain ⟨e, hd⟩ := decode_eq_error_iff.mpr ((reservedWord_iff c.cmd).mp hill)
    rw [issue_of_decode_error hd, raise]
  · cases hd : decode c with
    | error e => exact absurd ((reservedWord_iff c.cmd).mpr (decode_eq_error_iff.mp ⟨e, hd⟩)) hleg
    | ok i =>
      obtain ⟨t, ht⟩ := exec_completes i s
      exact ⟨i, t, rfl, issue_of_decode_ok hd s, ht, (exec_effect ht).fault_ne_illegal⟩

end Sys2Proof.Machine
end

section
/-! The bits of `din` outside a command's operand fields. -/

namespace Sys2Proof.Machine

/-- Only the word and the operand bits of a command count in decoding it (R63). -/
theorem decode_eq_ok_of_agree {c c' : Command} {i : Instr} (hcmd : c.cmd = c'.cmd)
    (hdin : ∀ j, j < usedBits (cmdOp c) → c.din.getLsbD j = c'.din.getLsbD j) (h : decode c = .ok i) :
    decode c' = .ok i := by
  obtain ⟨hop, hbits⟩ := decode_eq_ok_iff.mp h
  have hused : usedBits (cmdOp (encode i)) = usedBits (cmdOp c) := by
    rw [cmdOp, cmdOp, hop, encode]
  have hmask : c'.din &&& operandMask i = c.din &&& operandMask i := by
    rw [operandMask_eq, hused]
    refine BitVec.eq_of_getLsbD_eq fun j hj => ?_
    by_cases hlt : j < usedBits (cmdOp c)
    · rw [BitVec.getLsbD_and, BitVec.getLsbD_and, hdin j hlt]
    · simp [hlt]
  exact decode_eq_ok_iff.mpr ⟨hcmd ▸ hop, hmask.trans hbits⟩

/-- Settles O4: the two commands decode to the same instruction, or both words are illegal. -/
theorem unusedDinBitsHaveNoEffect : Obligations.UnusedDinBitsHaveNoEffect := by
  intro c c' s hcmd hdin
  cases hd : decode c with
  | ok i => rw [issue_of_decode_ok hd, issue_of_decode_ok (decode_eq_ok_of_agree hcmd hdin hd)]
  | error e =>
    obtain ⟨e', hd'⟩ := decode_eq_error_iff.mpr (hcmd ▸ decode_eq_error_iff.mp ⟨e, hd⟩)
    rw [issue_of_decode_error hd, issue_of_decode_error hd']

end Sys2Proof.Machine
end

section
/-! The assembler: what it writes for each line whose literals fit, from the encoder's row for it. -/

namespace Sys2Proof.Machine

theorem dinOfWord_ofNat {x : Nat} (hx : x < 2 ^ 16) :
    dinOfWord (BitVec.ofNat 16 x) = BitVec.ofNat 128 x :=
  BitVec.setWidth_ofNat_of_le_of_lt (by decide) hx

theorem dinOfBlock_ofNat {b : Nat} (hb : b < 2 ^ 64) :
    dinOfBlock (BitVec.ofNat 64 b) = BitVec.ofNat 128 b :=
  BitVec.setWidth_ofNat_of_le_of_lt (by decide) hb

/-- Two words side by side are the number `a * 2^16 + b` (R67). -/
theorem dinOfWords_ofNat {a b : Nat} (ha : a < 2 ^ 16) (hb : b < 2 ^ 16) :
    dinOfWords (BitVec.ofNat 16 a) (BitVec.ofNat 16 b) = BitVec.ofNat 128 (a * 2 ^ 16 + b) := by
  apply BitVec.eq_of_toNat_eq
  rw [dinOfWords, BitVec.toNat_setWidth, BitVec.toNat_append, BitVec.toNat_ofNat, BitVec.toNat_ofNat,
    BitVec.toNat_ofNat, Nat.mod_eq_of_lt ha, Nat.mod_eq_of_lt hb, ← Nat.shiftLeft_add_eq_or_of_lt hb,
    Nat.shiftLeft_eq]

/-- A line is assembled to its commands when its literals fit (R67). -/
theorem assemble_of_wf {line : AsmLine} (h : line.wf = true) : assemble line = some (commandsOfLine line) :=
  if_pos h

/-- A line whose literals do not fit is refused (R67; log entry 10). -/
theorem assemble_of_not_wf {line : AsmLine} (h : line.wf = false) : assemble line = none := by
  rw [assemble, h]
  rfl

/-- MUL takes two words (R67). -/
theorem assemble_mul {a b : Nat} (ha : a < 2 ^ 16) (hb : b < 2 ^ 16) :
    assemble (.mul a b) = some [⟨0x01#8, BitVec.ofNat 128 (a * 2 ^ 16 + b)⟩] := by
  rw [← dinOfWords_ofNat ha hb]
  exact assemble_of_wf (Bool.and_eq_true_iff.mpr ⟨decide_eq_true ha, decide_eq_true hb⟩)

/-- ADDINV and MULINV take one word (R67). -/
theorem assemble_word {x : Nat} (hx : x < 2 ^ 16) :
    assemble (.addinv x) = some [⟨0x02#8, BitVec.ofNat 128 x⟩] ∧
      assemble (.mulinv x) = some [⟨0x03#8, BitVec.ofNat 128 x⟩] := by
  rw [← dinOfWord_ofNat hx]
  exact ⟨assemble_of_wf (decide_eq_true hx), assemble_of_wf (decide_eq_true hx)⟩

/-- KEYSCHED and the two LOADKEY take a key, LOADKEY_D with REVSCHED after it (R67, R68). -/
theorem assemble_key {k : Nat} (hk : k < 2 ^ 128) :
    assemble (.keysched k) = some [⟨0x04#8, BitVec.ofNat 128 k⟩] ∧
      assemble (.loadkeyE k) = some [⟨0x04#8, BitVec.ofNat 128 k⟩] ∧
      assemble (.loadkeyD k) = some [⟨0x04#8, BitVec.ofNat 128 k⟩, ⟨0x05#8, 0#128⟩] :=
  ⟨assemble_of_wf (decide_eq_true hk), assemble_of_wf (decide_eq_true hk),
    assemble_of_wf (decide_eq_true hk)⟩

/-- XFORM_E, XFORM_D and BLOCK take a block (R67). -/
theorem assemble_blockLine {b : Nat} (hb : b < 2 ^ 64) :
    assemble (.xformE b) = some [⟨0x06#8, BitVec.ofNat 128 b⟩] ∧
      assemble (.xformD b) = some [⟨0x07#8, BitVec.ofNat 128 b⟩] ∧
      assemble (.block b) = some [⟨0x0A#8, BitVec.ofNat 128 b⟩] := by
  rw [← dinOfBlock_ofNat hb]
  exact ⟨assemble_of_wf (decide_eq_true hb), assemble_of_wf (decide_eq_true hb),
    assemble_of_wf (decide_eq_true hb)⟩

/-- What PROCESS issues before the first block: KEYSCHED, REVSCHED for DEC, START (R210). -/
def openingInstrs (k : Key) (dir : Direction) : List Instr :=
  [.keysched k] ++ (match dir with | .ENC => [] | .DEC => [.revsched]) ++ [startOf dir]

/-- The commands of PROCESS: its opening, one BLOCK for each padded block, END (R68). -/
theorem map_encode_processInstrs (k : Key) (dir : Direction) (bytes : List Byte) :
    (processInstrs k dir bytes).map encode = (openingInstrs k dir).map encode ++
      (blockCommands (streamBlocks bytes) ++ [encode .endChain]) := by
  have hparts : processInstrs k dir bytes =
      openingInstrs k dir ++ ((streamBlocks bytes).map .block ++ [.endChain]) := List.append_assoc ..
  rw [hparts, List.map_append, List.map_append, List.map_map]
  rfl

theorem assemble_process {k : Nat} (hk : k < 2 ^ 128) (dir : Direction) (bytes : List Byte) :
    assemble (.process k dir bytes) = some ((openingInstrs (BitVec.ofNat 128 k) dir).map encode ++
      (blockCommands (streamBlocks bytes) ++ [encode .endChain])) := by
  rw [← map_encode_processInstrs]
  exact assemble_of_wf (line := .process k dir bytes) (decide_eq_true hk)

/-- Settles O51, a form of line at a time: its literals fit, so it is its commands. -/
theorem assemblerWritesTheCommands : Obligations.AssemblerWritesTheCommands :=
  ⟨fun _ _ => assemble_mul, fun _ => assemble_word, fun _ => assemble_key, fun _ => assemble_blockLine,
    rfl, rfl, rfl, rfl, rfl, fun _ hw => assemble_of_wf (decide_eq_true hw),
    fun _ dir bytes hk => (assemble_process hk dir bytes).trans (by cases dir <;> rfl),
    fun _ => assemble_of_not_wf⟩

end Sys2Proof.Machine
end

section
/-! PROCESS as a run of commands (R68, R210): what it issues before the blocks, then the loop. -/

namespace Sys2Proof.Machine

theorem andThen_assoc {α β γ : Type} (o : Host.Outcome α Fault Refusal)
    (f : α → Host.Outcome β Fault Refusal) (g : β → Host.Outcome γ Fault Refusal) :
    andThen (andThen o f) g = andThen o fun a => andThen (f a) g := by
  cases o <;> rfl

/-- Everything a run of one command more can do: the command completes, and the rest is run (R276). -/
theorem runCommands_cons_cases {c : Command} {cs : List Command} {s : State} {r : Run}
    (h : runCommands (c :: cs) s = .next r) :
    ∃ t r', issue c s = .next t ∧ runCommands cs t = .next r' ∧
      r = { state := r'.state, douts := t.DOUT :: r'.douts } := by
  obtain ⟨t, ht⟩ := issue_completes c s
  rw [runCommands_cons_of_next ht] at h
  obtain ⟨r', hr', hcons⟩ := (andThen_eq_next_iff _ _ _).mp h
  exact ⟨t, r', ht, hr', (Host.Outcome.next.inj hcons).symm⟩

/-- A run of two lists of commands is the run of the first, then that of the second (R276). -/
theorem runCommands_append {cs : List Command} {s : State} {r : Run} (h : runCommands cs s = .next r)
    (ds : List Command) :
    runCommands (cs ++ ds) s = andThen (runCommands ds r.state) fun r' =>
      .next { state := r'.state, douts := r.douts ++ r'.douts } := by
  induction cs generalizing s r with
  | nil =>
    obtain rfl := Host.Outcome.next.inj h
    cases hds : runCommands ds s <;> simp [hds]
  | cons c cs ih =>
    obtain ⟨t, r', ht, hr', rfl⟩ := runCommands_cons_cases h
    rw [List.cons_append, runCommands_cons_of_next ht, ih hr', andThen_assoc]
    rfl

/-- PROCESS runs its opening commands, then the loop (R210). -/
theorem processFrom_of_opening {k : Key} {dir : Direction} {s : State} {r : Run}
    (h : runCommands ((openingInstrs k dir).map encode) s = .next r) (src : Source) (sink : Sink) :
    processFrom k dir src sink s = processLoop src.reads sink.room [] r.state := by
  have hrun : processFrom k dir src sink s =
      andThen (runCommands ((openingInstrs k dir).map encode) s) fun r =>
        processLoop src.reads sink.room [] r.state := by
    cases dir <;> simp [processFrom, openingInstrs, prepareDirection, runCommands, issueInstr, andThen_assoc]
  rw [hrun, h, andThen_next]

/-- The report of a PROCESS that wrote all its output. -/
def outputReport (s : State) (out : List Byte) : Report := { state := s, result := .output out, written := out }

/-- The loop over full chunks is the run of one BLOCK for each and END, and writes DOUT after each BLOCK. -/
theorem processLoop_of_full_chunks {chunks : List (List Byte)} (full : ∀ chunk ∈ chunks, chunk.length = 8)
    {s : State} {r : Run}
    (h : runCommands (blockCommands (chunks.map blockOfBytes) ++ [encode .endChain]) s = .next r)
    (out : List Byte) :
    processLoop chunks none out s =
      .next (outputReport r.state (out ++ (r.douts.take chunks.length).flatMap bytesOfBlock)) := by
  induction chunks generalizing s r out with
  | nil =>
    obtain rfl := Host.Outcome.next.inj h
    rw [List.length_nil, List.take_zero, List.flatMap_nil, List.append_nil]
    rfl
  | cons chunk chunks ih =>
    obtain ⟨hchunk, hrest⟩ := List.forall_mem_cons.mp full
    obtain ⟨t, r', ht, hr', rfl⟩ := runCommands_cons_cases h
    rw [processLoop_full hchunk, issueInstr, ht, andThen_next, if_neg (by simp), Option.map_none, ih hrest hr']
    simp

theorem length_le_of_mem_chunksOf {s chunk : List Byte} (h : chunk ∈ chunksOf s) : chunk.length ≤ 8 := by
  induction s using chunk_induction with
  | nil => simp at h
  | short s hnil hlt =>
    rw [chunksOf_short hnil hlt, List.mem_singleton] at h
    exact h ▸ hlt.le
  | full first rest hf ih =>
    rw [chunksOf_full hf, List.mem_cons] at h
    obtain rfl | hmem := h
    · exact hf.le
    · exact ih hmem

/-- The chunks of a padded stream are all full (R44). -/
theorem length_of_mem_chunksOf_padStream {s chunk : List Byte} (h : chunk ∈ chunksOf (padStream s)) :
    chunk.length = 8 := by
  rw [← map_padChunk_chunksOf] at h
  obtain ⟨c, hc, rfl⟩ := List.mem_map.mp h
  exact length_padChunk (length_le_of_mem_chunksOf hc)

/-- The loop over a stream is the run of one BLOCK for each padded block and END (R210). -/
theorem processLoop_chunksOf {bytes : List Byte} {s : State} {r : Run}
    (h : runCommands (blockCommands (streamBlocks bytes) ++ [encode .endChain]) s = .next r) :
    processLoop (chunksOf bytes) none [] s =
      .next (outputReport r.state ((r.douts.take (streamBlocks bytes).length).flatMap bytesOfBlock)) := by
  rw [processLoop_padStream]
  rw [streamBlocks_eq_map_chunksOf_padStream] at h ⊢
  rw [processLoop_of_full_chunks (fun _ => length_of_mem_chunksOf_padStream) h, List.nil_append,
    List.length_map]

/-- With a key of 16 bytes and an IDLE core, PROCESS passes all its checks (R210). -/
theorem processBytes_of_idle {key : List Byte} {s : State} (hkey : key.length = 16) (idle : s.MODE = .IDLE)
    (dir : Direction) (bytes : List Byte) :
    processBytes key dir bytes s =
      processFrom (keyOfBytes key) dir (.ofBytes bytes) .unlimited s := by
  simp [processBytes, process, hkey, idle]

/-- Settles O48: the opening commands and the blocks with END are run one after the other, and the loop writes
the DOUT values of the second run, which stand behind those of the first. -/
theorem processIsItsCommandSequence : Obligations.ProcessIsItsCommandSequence := by
  intro key dir s bytes hkey idle
  obtain ⟨r0, h0, hlen, -⟩ := runCommands_completes ((openingInstrs (keyOfBytes key) dir).map encode) s
  obtain ⟨r1, h1, -⟩ :=
    runCommands_completes (blockCommands (streamBlocks bytes) ++ [encode .endChain]) r0.state
  have hrun : runCommands ((processInstrs (keyOfBytes key) dir bytes).map encode) s =
      .next { state := r1.state, douts := r0.douts ++ r1.douts } := by
    rw [map_encode_processInstrs, runCommands_append h0, h1, andThen_next]
  have hdrop : (r0.douts ++ r1.douts).drop (openingInstrs (keyOfBytes key) dir).length = r1.douts :=
    List.drop_left' (by rw [hlen, List.length_map])
  have hprocess : processBytes key dir bytes s = .next (outputReport r1.state
      ((((r0.douts ++ r1.douts).drop (openingInstrs (keyOfBytes key) dir).length).take
        (streamBlocks bytes).length).flatMap bytesOfBlock)) := by
    rw [processBytes_of_idle hkey idle, processFrom_of_opening h0, hdrop]
    exact processLoop_chunksOf h1
  exact ⟨_, _, hrun, hprocess, rfl, by cases dir <;> rfl⟩

end Sys2Proof.Machine
end

section
/-! Modular arithmetic: `addinv` as negation of Words, and `factor` as the one-to-one map of R108 from the Words
to the numbers 1..65536, which takes `mul` to the product modulo 65537 and `mulinv` to the power 65535. -/

namespace Sys2Proof.Machine

/-! ### The additive inverse -/

/-- `addinv` is two's-complement negation (R101). -/
theorem addinv_eq_neg (x : Word) : addinv x = -x := by
  apply BitVec.eq_of_toNat_eq
  rw [addinv, trunc16_toNat, Nat.mod_mod, BitVec.toNat_neg]

/-- The only Words that are their own negation are 0 and 0x8000 (R106). -/
theorem addinv_eq_self_iff (x : Word) : addinv x = x ↔ x = 0#16 ∨ x = 0x8000#16 := by
  have hlt := x.isLt
  simp only [← BitVec.toNat_inj, addinv, trunc16_toNat, BitVec.toNat_ofNat]
  omega

/-- Settles O15, from the value of `addinv` and its being the negation. -/
theorem additiveInverseModulo65536 : Obligations.AdditiveInverseModulo65536 := by
  refine ⟨fun x => ?_, fun x => ?_, by decide, by decide, by decide, by decide⟩
  · rw [addinv, trunc16_toNat, Nat.mod_mod]
  · have hsum : (x + addinv x).toNat = 0 := by rw [addinv_eq_neg, BitVec.add_right_neg]; rfl
    rwa [BitVec.toNat_add] at hsum

/-! ### Words as the numbers 1..65536 -/

theorem prime_65537 : Nat.Prime 65537 := by norm_num

@[simp] theorem factor_zero : factor 0#16 = 65536 := rfl
@[simp] theorem factor_one : factor 1#16 = 1 := rfl

theorem factor_of_ne_zero {x : Word} (h : x ≠ 0#16) : factor x = x.toNat := if_neg h

/-- A Word is its factor truncated (R100). -/
theorem toNat_eq_factor_mod (x : Word) : x.toNat = factor x % 65536 := by
  by_cases h : x = 0#16
  · rw [h]; rfl
  · rw [factor_of_ne_zero h, Nat.mod_eq_of_lt x.isLt]

theorem factor_injective {a b : Word} (h : factor a = factor b) : a = b := by
  apply BitVec.eq_of_toNat_eq
  rw [toNat_eq_factor_mod, h, ← toNat_eq_factor_mod]

/-- Every number in 1..65536 is the factor of a Word, its truncation (R108). -/
theorem factor_trunc16 {n : Nat} (hpos : 1 ≤ n) (hle : n ≤ 65536) : factor (trunc16 n) = n := by
  obtain rfl | hlt := hle.eq_or_lt
  · rfl
  · have hval : (trunc16 n).toNat = n := by rw [trunc16_toNat, Nat.mod_eq_of_lt hlt]
    have hne : trunc16 n ≠ 0#16 := fun h0 => by
      rw [h0, BitVec.toNat_ofNat] at hval
      omega
    rw [factor_of_ne_zero hne, hval]

/-- No factor is a multiple of the prime (R100). -/
theorem not_dvd_factor (a : Word) : ¬ 65537 ∣ factor a := by
  obtain ⟨hpos, hle⟩ := factor_range a
  exact Nat.not_dvd_of_pos_of_lt hpos (by omega)

/-- A number that is no multiple of 65537 leaves a remainder in 1..65536. -/
theorem mod_65537_range {n : Nat} (h : ¬ 65537 ∣ n) : 1 ≤ n % 65537 ∧ n % 65537 ≤ 65536 := by
  omega

/-! ### Multiplication -/

/-- The product of two factors leaves a remainder in 1..65536, because 65537 is prime (R100). -/
theorem product_mod_range (a b : Word) :
    1 ≤ factor a * factor b % 65537 ∧ factor a * factor b % 65537 ≤ 65536 :=
  mod_65537_range (prime_65537.not_dvd_mul (not_dvd_factor a) (not_dvd_factor b))

/-- `mul` is the product of the factors modulo 65537 (R108). -/
theorem factor_mul (a b : Word) : factor (mul a b) = factor a * factor b % 65537 := by
  obtain ⟨hpos, hle⟩ := product_mod_range a b
  exact factor_trunc16 hpos hle

theorem mul_toNat (a b : Word) : (mul a b).toNat = factor a * factor b % 65537 % 65536 :=
  trunc16_toNat _

protected theorem mul_comm (a b : Word) : mul a b = mul b a := by
  rw [mul, mul, Nat.mul_comm]

protected theorem mul_assoc (a b c : Word) : mul (mul a b) c = mul a (mul b c) := by
  apply factor_injective
  rw [factor_mul, factor_mul, factor_mul, factor_mul, Nat.mod_mul_mod, Nat.mul_mod_mod, Nat.mul_assoc]

protected theorem one_mul (a : Word) : mul 1#16 a = a := by
  obtain ⟨-, hle⟩ := factor_range a
  apply factor_injective
  rw [factor_mul, factor_one, Nat.one_mul, Nat.mod_eq_of_lt (by omega)]

protected theorem mul_one (a : Word) : mul a 1#16 = a := by
  rw [Machine.mul_comm, Machine.one_mul]

/-- 0 stands for 65536, which is -1 modulo 65537 (R100). -/
theorem zero_mul_toNat {x : Word} (h : 2 ≤ x.toNat) : (mul 0#16 x).toNat = 65537 - x.toNat := by
  have hlt := x.isLt
  have hne : x ≠ 0#16 := fun h0 => by simp [h0] at h
  have hprod : 65536 * x.toNat % 65537 = 65537 - x.toNat := by omega
  rw [mul_toNat, factor_zero, factor_of_ne_zero hne, hprod]
  omega

/-- Settles O14, from the range of the factors and of the remainder. -/
theorem multiplicationModulo65537 : Obligations.MultiplicationModulo65537 := by
  refine ⟨fun a b => ?_, by decide, by decide, by decide, fun _ => zero_mul_toNat, Machine.one_mul, by decide,
    by decide⟩
  change factor a * factor b ≤ 2 ^ 32 ∧ (mul a b).toNat = factor a * factor b % 65537 % 65536 ∧
    1 ≤ factor a * factor b % 65537 ∧ factor a * factor b % 65537 ≤ 65536 ∧
      (factor a * factor b % 65537 < 65536 → (mul a b).toNat = factor a * factor b % 65537)
  obtain ⟨hpos, hle⟩ := product_mod_range a b
  have hbound : factor a * factor b ≤ 65536 * 65536 := Nat.mul_le_mul (factor_range a).2 (factor_range b).2
  refine ⟨hbound, mul_toNat a b, hpos, hle, fun hlt => ?_⟩
  rw [mul_toNat, Nat.mod_eq_of_lt hlt]

/-! ### The multiplicative inverse -/

theorem mulinv_toNat (x : Word) : (mulinv x).toNat = x.toNat ^ 65535 % 65537 % 65536 := by
  rw [mulinv, trunc16_toNat, powAllOnes_eq_pow]
  norm_num

@[simp] theorem mulinv_zero : mulinv 0#16 = 0#16 := by decide

/-- A power of a factor leaves a remainder in 1..65536. -/
theorem powAllOnes_factor_range (x : Word) (n : Nat) :
    1 ≤ powAllOnes (factor x) n ∧ powAllOnes (factor x) n ≤ 65536 := by
  rw [powAllOnes_eq_pow]
  exact mod_65537_range fun hd => not_dvd_factor x (prime_65537.dvd_of_dvd_pow hd)

/-- `mulinv` is the power 65535 of the factor. This holds for 0 too, where R102 takes x as 0 and the factor is
65536, which is -1 modulo 65537. -/
theorem factor_mulinv (x : Word) : factor (mulinv x) = powAllOnes (factor x) 16 := by
  by_cases h : x = 0#16
  · subst h
    decide
  · obtain ⟨hpos, hle⟩ := powAllOnes_factor_range x 16
    rw [mulinv, ← factor_of_ne_zero h, factor_trunc16 hpos hle]

/-- Fermat's little theorem: one factor more makes the exponent 65536 (R102). -/
theorem factor_mul_powAllOnes_mod (x : Word) : factor x * powAllOnes (factor x) 16 % 65537 = 1 := by
  have hcop : Nat.Coprime (factor x) 65537 :=
    (prime_65537.coprime_iff_not_dvd.mpr (not_dvd_factor x)).symm
  have hexp : Nat.totient 65537 = 2 ^ 16 - 1 + 1 := Nat.totient_prime prime_65537
  rw [powAllOnes_eq_pow, Nat.mul_mod_mod, ← Nat.pow_succ', Nat.succ_eq_add_one, ← hexp]
  exact Nat.ModEq.pow_totient hcop

theorem mul_mulinv (x : Word) : mul x (mulinv x) = 1#16 := by
  apply factor_injective
  rw [factor_mul, factor_mulinv, factor_mul_powAllOnes_mod, factor_one]

/-- Inverses in the group are unique. -/
theorem mul_eq_one_iff (x y : Word) : mul x y = 1#16 ↔ y = mulinv x := by
  constructor
  · intro h
    calc y = mul (mul x (mulinv x)) y := by rw [mul_mulinv, Machine.one_mul]
      _ = mul (mul x y) (mulinv x) := by
        rw [Machine.mul_assoc, Machine.mul_comm (mulinv x), ← Machine.mul_assoc]
      _ = mulinv x := by rw [h, Machine.one_mul]
  · rintro rfl
    exact mul_mulinv x

@[simp] theorem mulinv_mulinv (x : Word) : mulinv (mulinv x) = x :=
  ((mul_eq_one_iff (mulinv x) x).mp (by rw [Machine.mul_comm, mul_mulinv])).symm

theorem mulinv_eq_zero_iff (x : Word) : mulinv x = 0#16 ↔ x = 0#16 := by
  constructor
  · intro h
    rw [← mulinv_mulinv x, h, mulinv_zero]
  · rintro rfl
    exact mulinv_zero

/-- Modulo a prime only 1 and -1 are their own inverse, and 65536 is -1 (R108). -/
theorem mulinv_eq_self_iff (x : Word) : mulinv x = x ↔ x = 0#16 ∨ x = 1#16 := by
  constructor
  · intro h
    obtain ⟨hpos, hle⟩ := factor_range x
    have hsquare : factor x * factor x % 65537 = 1 := by
      rw [← factor_mul, (mul_eq_one_iff x x).mpr h.symm, factor_one]
    have hdvd : 65537 ∣ (factor x + 1) * (factor x - 1) := by
      rw [← Nat.mul_self_sub_mul_self_eq]
      omega
    obtain hplus | hminus := prime_65537.dvd_mul.mp hdvd
    · exact .inl (factor_injective (by rw [factor_zero]; omega))
    · exact .inr (factor_injective (by rw [factor_one]; omega))
  · rintro (rfl | rfl)
    · exact mulinv_zero
    · decide

/-- The inverse is the one number in 1..65535 whose product with `x` leaves 1 (R102). -/
theorem toNat_mul_mod_eq_one_iff {x : Word} (hx : x ≠ 0#16) {y : Nat} (hpos : 1 ≤ y) (hle : y ≤ 65535) :
    x.toNat * y % 65537 = 1 ↔ y = (mulinv x).toNat := by
  have hfactor : factor (trunc16 y) = y := factor_trunc16 hpos (by omega)
  have hval : (trunc16 y).toNat = y := by rw [trunc16_toNat, Nat.mod_eq_of_lt (by omega)]
  calc x.toNat * y % 65537 = 1
    _ ↔ factor (mul x (trunc16 y)) = factor 1#16 := by
        rw [factor_mul, hfactor, factor_of_ne_zero hx, factor_one]
    _ ↔ mul x (trunc16 y) = 1#16 := ⟨factor_injective, congrArg factor⟩
    _ ↔ trunc16 y = mulinv x := mul_eq_one_iff x _
    _ ↔ y = (mulinv x).toNat := by rw [← BitVec.toNat_inj, hval]

theorem one_le_mulinv_toNat {x : Word} (hx : x ≠ 0#16) : 1 ≤ (mulinv x).toNat := by
  have hne : mulinv x ≠ 0#16 := mt (mulinv_eq_zero_iff x).mp hx
  rw [← factor_of_ne_zero hne]
  exact (factor_range _).1

/-- Settles O16, from the group laws of `mul` with `mulinv`. -/
theorem multiplicativeInverseModulo65537 : Obligations.MultiplicativeInverseModulo65537 :=
  ⟨mulinv_toNat, mulinv_zero, fun _ hx _ => toNat_mul_mod_eq_one_iff hx, fun _ => one_le_mulinv_toNat,
    mul_mulinv, by decide, by decide, by decide, by decide, by decide⟩

end Sys2Proof.Machine
end

section
/-! The commands MUL, ADDINV and MULINV (R105 to R107): each writes its word to DOUT, zero-extended, and nothing
else. -/

namespace Sys2Proof.Machine

theorem exec_mul (a b : Word) (s : State) : exec (.mul a b) s = .next (s.setDoutWord (mul a b)) :=
  (Effect.mul a b s).exec_eq

theorem exec_addinv (x : Word) (s : State) : exec (.addinv x) s = .next (s.setDoutWord (addinv x)) :=
  (Effect.addinv x s).exec_eq

theorem exec_mulinv (x : Word) (s : State) : exec (.mulinv x) s = .next (s.setDoutWord (mulinv x)) :=
  (Effect.mulinv x s).exec_eq

/-- The state after a word is written to DOUT, by the word's value (R27, R64). -/
theorem State.setDoutWord_of_toNat {r : Word} {v : Nat} (h : r.toNat = v) (s : State) :
    s.setDoutWord r = { s with DOUT := BitVec.ofNat 64 v } := by
  rw [State.setDoutWord, ← BitVec.ofNat_toNat, h]

/-- Zero extension loses nothing, so DOUT tells which word was written. -/
theorem State.setDoutWord_DOUT_eq_iff (s : State) (r x : Word) :
    (s.setDoutWord r).DOUT = x.setWidth 64 ↔ r = x := by
  have hle : 16 ≤ 64 := by decide
  rw [State.setDoutWord_DOUT, ← BitVec.toNat_inj, BitVec.toNat_setWidth_of_le hle,
    BitVec.toNat_setWidth_of_le hle, BitVec.toNat_inj]

/-- Settles O18, from the value of `mul`. -/
theorem mulCommand : Obligations.MulCommand := by
  refine ⟨decode_mul, fun a b s => ?_, fun a b s => ?_, fun s => ⟨?_, ?_, ?_, ?_⟩⟩
  · exact (exec_mul a b s).trans (congrArg _ (s.setDoutWord_of_toNat (mul_toNat a b)))
  · rw [exec_mul, exec_mul, Machine.mul_comm]
  all_goals exact (exec_mul _ _ s).trans (congrArg _ (s.setDoutWord_of_toNat (by decide)))

/-- Settles O19, from the value of `addinv` and its fixed points. -/
theorem addinvCommand : Obligations.AddinvCommand := by
  obtain ⟨hval, -⟩ := additiveInverseModulo65536
  refine ⟨decode_addinv, fun x s => ?_, fun x s t h => ?_, fun s => ?_⟩
  · rw [exec_addinv, s.setDoutWord_of_toNat (hval x)]
  · obtain rfl := Host.Outcome.next.inj ((exec_addinv x s).symm.trans h)
    exact (s.setDoutWord_DOUT_eq_iff _ _).trans (addinv_eq_self_iff x)
  · exact (exec_addinv _ s).trans (congrArg _ (s.setDoutWord_of_toNat (by decide)))

/-- Settles O20, from the value of `mulinv` and its fixed points. -/
theorem mulinvCommand : Obligations.MulinvCommand := by
  refine ⟨decode_mulinv, fun x s => ?_, fun x s t h => ?_, fun s => ?_⟩
  · rw [exec_mulinv, s.setDoutWord_of_toNat (mulinv_toNat x)]
  · obtain rfl := Host.Outcome.next.inj ((exec_mulinv x s).symm.trans h)
    exact (s.setDoutWord_DOUT_eq_iff _ _).trans (mulinv_eq_self_iff x)
  · exact (exec_mulinv _ s).trans (congrArg _ (s.setDoutWord_of_toNat (by decide)))

/-- A result in DOUT touches no field of STATUS (R108). -/
theorem STATUS_of_exec_eq_setDoutWord {i : Instr} {s t : State} {r : Word}
    (he : exec i s = .next (s.setDoutWord r)) (h : exec i s = .next t) : t.STATUS = s.STATUS := by
  obtain rfl := Host.Outcome.next.inj (he.symm.trans h)
  exact s.setDoutWord_STATUS r

/-- Settles O17: the group is the one of the factors, negation is the inverse for addition, and the three
commands write DOUT alone. -/
theorem lawsOfTheModularArithmetic : Obligations.LawsOfTheModularArithmetic := by
  refine ⟨Machine.mul_comm, Machine.mul_assoc, fun a => ⟨Machine.one_mul a, Machine.mul_one a⟩,
    fun a b => ⟨factor_mul a b, factor_injective⟩, fun n hpos hle => ⟨trunc16 n, factor_trunc16 hpos hle⟩,
    mul_mulinv, mulinv_mulinv, mulinv_eq_self_iff, fun x => ?_,
    fun a b => Nat.le_of_lt_succ (mul a b).isLt, fun i s t hi h => ?_⟩
  · rw [addinv_eq_neg, addinv_eq_neg]
    exact ⟨BitVec.add_right_neg x, BitVec.neg_neg⟩
  · obtain ⟨a, b, rfl⟩ | ⟨x, rfl⟩ | ⟨x, rfl⟩ := hi
    · exact STATUS_of_exec_eq_setDoutWord (exec_mul a b s) h
    · exact STATUS_of_exec_eq_setDoutWord (exec_addinv x s) h
    · exact STATUS_of_exec_eq_setDoutWord (exec_mulinv x s) h

end Sys2Proof.Machine
end

section
/-! The key schedule (R120 to R123): the words cut from the rotated register follow the index formula, and
that formula has no other solution. -/

namespace Sys2Proof.Machine

/-! ### Words of a schedule -/

theorem wordAt_eq_getElem (Z : Schedule) {n : Nat} (hn : n < 52) : wordAt Z n = Z[n] := by
  simp [wordAt, Vector.getD, hn]

theorem schedule_ext {Z Y : Schedule} (h : ∀ n, n < 52 → wordAt Z n = wordAt Y n) : Z = Y := by
  apply Vector.ext
  intro n hn
  rw [← wordAt_eq_getElem Z hn, ← wordAt_eq_getElem Y hn]
  exact h n hn

/-- Word `p` of group `g` is word `p` of that group's register (R122). -/
theorem wordAt_expand_group (k : Key) {g p : Nat} (hp : p < 8) (hn : 8 * g + p < 52) :
    wordAt (expand k) (8 * g + p) = keyWord (keyRegister k g) p := by
  have hdiv : (8 * g + p) / 8 = g := by omega
  have hmod : (8 * g + p) % 8 = p := by omega
  rw [wordAt_eq_getElem _ hn, expand_getElem, hdiv, hmod]

theorem wordAt_expand_keyWord (k : Key) {j : Nat} (hj : j < 8) :
    wordAt (expand k) j = k.extractLsb' (112 - 16 * j) 16 := by
  rw [wordAt_eq_getElem _ (by omega)]
  exact expand_firstWords k ⟨j, hj⟩

/-! ### The rotated register -/

/-- A rotation to the left by `r` is one by `128 - r` to the right: bit `i` comes from that far above. -/
theorem getLsbD_rotateLeft_key (v : Key) (r : Nat) {i : Nat} (hi : i < 128) :
    (v.rotateLeft r).getLsbD i = v.getLsbD ((i + (128 - r % 128)) % 128) := by
  rw [BitVec.getLsbD_rotateLeft]
  by_cases hwrap : i < r % 128
  · have hsrc : (i + (128 - r % 128)) % 128 = 128 - r % 128 + i := by omega
    simp [hwrap, hsrc]
  · have hsrc : (i + (128 - r % 128)) % 128 = i - r % 128 := by omega
    simp [hwrap, hi, hsrc]

/-- The register of the next group is the one before it, rotated by a further 25 bits (R122). -/
theorem keyRegister_succ (k : Key) (g : Nat) :
    keyRegister k (g + 1) = (keyRegister k g).rotateLeft 25 := by
  apply BitVec.eq_of_getLsbD_eq
  intro i hi
  simp only [keyRegister]
  rw [getLsbD_rotateLeft_key _ _ hi, getLsbD_rotateLeft_key _ 25 hi,
    getLsbD_rotateLeft_key _ _ (Nat.mod_lt _ (by decide))]
  congr 1
  omega

/-- The 25 bits are one word and 9 bits of the next: word `p` of the rotated register takes 7 bits from word
`p + 1` and 9 bits from word `p + 2` of the register before, around its end (R123). -/
theorem keyWord_rotateLeft_25 (v : Key) {p : Nat} (hp : p < 8) :
    keyWord (v.rotateLeft 25) p = (keyWord v ((p + 1) % 8) <<< 9) ||| (keyWord v ((p + 2) % 8) >>> 7) := by
  apply BitVec.eq_of_getLsbD_eq
  intro b hb
  simp only [keyWord, BitVec.getLsbD_or, BitVec.getLsbD_shiftLeft, BitVec.getLsbD_ushiftRight,
    BitVec.getLsbD_extractLsb', hb, decide_true, Bool.true_and]
  rw [getLsbD_rotateLeft_key _ _ (by omega)]
  by_cases hlow : b < 9
  · have hsrc : (112 - 16 * p + b + (128 - 25 % 128)) % 128 = 112 - 16 * ((p + 2) % 8) + (7 + b) := by omega
    simp [hlow, hsrc, show 7 + b < 16 by omega]
  · have hsrc : (112 - 16 * p + b + (128 - 25 % 128)) % 128 = 112 - 16 * ((p + 1) % 8) + (b - 9) := by omega
    simp [hlow, hsrc, show ¬ 7 + b < 16 by omega, show b - 9 < 16 by omega]

/-- The 7 high and the 9 low bits of a new word do not overlap (R121). -/
theorem shiftLeft_9_and_ushiftRight_7 (a b : Word) : (a <<< 9) &&& (b >>> 7) = 0#16 := by
  apply BitVec.eq_of_getLsbD_eq
  intro i hi
  rw [BitVec.getLsbD_and, BitVec.getLsbD_shiftLeft, BitVec.getLsbD_ushiftRight, BitVec.getLsbD_zero]
  by_cases hlow : i < 9
  · simp [hlow]
  · rw [BitVec.getLsbD_of_ge b _ (by omega), Bool.and_false]

/-! ### The index formula -/

/-- `j1` of R121, the word the 7 high bits of word `i` come from. -/
def highSource (i : Nat) : Nat := if (i + 1) % 8 = 0 then i - 15 else i - 7

/-- `j2` of R121, the word the 9 low bits of word `i` come from. -/
def lowSource (i : Nat) : Nat := if (i + 2) % 8 < 2 then i - 14 else i - 6

/-- The schedule `Z` follows the index formula for the key `k` (R120, R121). -/
structure FollowsIndexFormula (k : Key) (Z : Schedule) : Prop where
  keyWords : ∀ j, j < 8 → wordAt Z j = k.extractLsb' (112 - 16 * j) 16
  laterWords : ∀ i, 8 ≤ i → i < 52 →
    wordAt Z i = (wordAt Z (highSource i) <<< 9) ||| (wordAt Z (lowSource i) >>> 7)

/-- `j1` is word `p + 1` of the group before, around its end (R123). -/
theorem highSource_group (g : Nat) {p : Nat} (hp : p < 8) :
    highSource (8 * (g + 1) + p) = 8 * g + (p + 1) % 8 := by
  unfold highSource
  split <;> omega

/-- `j2` is word `p + 2` of the group before, around its end (R123). -/
theorem lowSource_group (g : Nat) {p : Nat} (hp : p < 8) :
    lowSource (8 * (g + 1) + p) = 8 * g + (p + 2) % 8 := by
  unfold lowSource
  split <;> omega

theorem highSource_lt {i : Nat} (hi : 8 ≤ i) : highSource i < i := by
  unfold highSource
  split <;> omega

theorem lowSource_lt {i : Nat} (hi : 8 ≤ i) : lowSource i < i := by
  unfold lowSource
  split <;> omega

/-- The rotation gives the words of the index formula, group by group (R123). -/
theorem wordAt_expand_next_group (k : Key) {g p : Nat} (hp : p < 8) (hn : 8 * (g + 1) + p < 52) :
    wordAt (expand k) (8 * (g + 1) + p) =
      (wordAt (expand k) (highSource (8 * (g + 1) + p)) <<< 9) |||
        (wordAt (expand k) (lowSource (8 * (g + 1) + p)) >>> 7) := by
  have hhigh : (p + 1) % 8 < 8 := Nat.mod_lt _ (by decide)
  have hlow : (p + 2) % 8 < 8 := Nat.mod_lt _ (by decide)
  rw [highSource_group g hp, lowSource_group g hp, wordAt_expand_group k hp hn,
    wordAt_expand_group k hhigh (by omega), wordAt_expand_group k hlow (by omega), keyRegister_succ,
    keyWord_rotateLeft_25 _ hp]

theorem expand_followsIndexFormula (k : Key) : FollowsIndexFormula k (expand k) where
  keyWords _ := wordAt_expand_keyWord k
  laterWords i hi hn := by
    obtain ⟨g, p, hp, rfl⟩ : ∃ g p, p < 8 ∧ i = 8 * (g + 1) + p :=
      ⟨i / 8 - 1, i % 8, Nat.mod_lt _ (by decide), by omega⟩
    exact wordAt_expand_next_group k hp hn

/-- The index formula determines the schedule: its sources lie before the word they make. -/
theorem FollowsIndexFormula.unique {k : Key} {Z Y : Schedule} (hZ : FollowsIndexFormula k Z)
    (hY : FollowsIndexFormula k Y) : Z = Y := by
  refine schedule_ext fun i => ?_
  induction i using Nat.strong_induction_on with
  | _ i ih =>
    intro hn
    by_cases hi : i < 8
    · rw [hZ.keyWords i hi, hY.keyWords i hi]
    · have h8 : 8 ≤ i := Nat.le_of_not_lt hi
      have hhigh := highSource_lt h8
      have hlow := lowSource_lt h8
      rw [hZ.laterWords i h8 hn, hY.laterWords i h8 hn, ih _ hhigh (hhigh.trans hn), ih _ hlow (hlow.trans hn)]

/-- Settles O21: `expand` follows the index formula, by the rotation of one word and 9 bits from each group to
the next. -/
theorem keyScheduleIndexFormula : Obligations.KeyScheduleIndexFormula := fun k =>
  ⟨(expand_followsIndexFormula k).keyWords, fun i hi hn =>
    ⟨(expand_followsIndexFormula k).laterWords i hi hn, shiftLeft_9_and_ushiftRight_7 _ _⟩⟩

/-! ### The rotation in natural numbers -/

/-- `rotl128(v, n)` of R122. -/
def rotl128 (v n : Nat) : Nat := (v <<< n ||| v >>> (128 - n)) % 2 ^ 128

theorem toNat_rotateLeft_key (v : Key) {n : Nat} (hn : n < 128) :
    (v.rotateLeft n).toNat = rotl128 v.toNat n := by
  have hlt : v.toNat >>> (128 - n) < 2 ^ 128 := (Nat.shiftRight_le _ _).trans_lt v.isLt
  rw [BitVec.toNat_rotateLeft, Nat.mod_eq_of_lt hn, rotl128, Nat.or_mod_two_pow, Nat.mod_eq_of_lt hlt]

theorem toNat_keyRegister (k : Key) (g : Nat) :
    (keyRegister k g).toNat = (fun v => rotl128 v 25)^[g] k.toNat := by
  induction g with
  | zero => rw [keyRegister_zero, Function.iterate_zero_apply]
  | succ g ih => rw [keyRegister_succ, toNat_rotateLeft_key _ (by decide), ih, Function.iterate_succ_apply']

/-- Settles O22: the register's value in naturals by induction on the group, and the one schedule of the index
formula. -/
theorem rotationAndIndexFormulaAgree : Obligations.RotationAndIndexFormulaAgree := by
  refine ⟨fun k g p hp hn => ?_, fun k Z hkey hlater => ?_⟩
  · rw [wordAt_expand_group k hp hn, keyWord, BitVec.extractLsb'_toNat, toNat_keyRegister]
    rfl
  · exact FollowsIndexFormula.unique ⟨hkey, hlater⟩ (expand_followsIndexFormula k)

end Sys2Proof.Machine
end

section
/-! The command KEYSCHED (R124, R125). -/

namespace Sys2Proof.Machine

theorem exec_keysched_of_idle (k : Key) {s : State} (idle : s.MODE = .IDLE) :
    exec (.keysched k) s = .next { s with EK := some (expand k), DK := none } :=
  (Effect.keysched k idle).exec_eq

/-- A key all of whose registers hold one value `w` in every word expands to `w` throughout. -/
theorem expand_eq_replicate {k : Key} {w : Word} (h : ∀ g p, p < 8 → keyWord (keyRegister k g) p = w) :
    expand k = Vector.replicate 52 w := by
  apply Vector.ext
  intro n hn
  rw [expand_getElem, Vector.getElem_replicate]
  exact h (n / 8) (n % 8) (Nat.mod_lt _ (by decide))

theorem keyRegister_allZero (g : Nat) : keyRegister 0#128 g = 0#128 := by
  apply BitVec.eq_of_getLsbD_eq
  intro i hi
  rw [keyRegister, getLsbD_rotateLeft_key _ _ hi, BitVec.getLsbD_zero, BitVec.getLsbD_zero]

/-- Every rotation of all ones is all ones (R124). -/
theorem keyRegister_allOnes (g : Nat) : keyRegister (BitVec.allOnes 128) g = BitVec.allOnes 128 := by
  apply BitVec.eq_of_getLsbD_eq
  intro i hi
  have hsrc : (i + (128 - 25 * g % 128)) % 128 < 128 := Nat.mod_lt _ (by decide)
  rw [keyRegister, getLsbD_rotateLeft_key _ _ hi, BitVec.getLsbD_allOnes, BitVec.getLsbD_allOnes,
    decide_eq_true hsrc, decide_eq_true hi]

theorem expand_allZero : expand 0#128 = Vector.replicate 52 0x0000#16 := by
  refine expand_eq_replicate fun g p _ => ?_
  rw [keyRegister_allZero, keyWord, BitVec.extractLsb'_zero]

theorem expand_allOnes : expand (BitVec.allOnes 128) = Vector.replicate 52 0xFFFF#16 := by
  refine expand_eq_replicate fun g p hp => ?_
  rw [keyRegister_allOnes]
  revert p
  decide

/-- Settles O23: in IDLE the new EK is `expand(k)`, whatever else the state holds. -/
theorem ekDependsOnTheKeyAlone : Obligations.EkDependsOnTheKeyAlone := by
  intro k s s' t t' idle idle' h h'
  rw [issue_of_decode_ok (decode_keysched k), exec_keysched_of_idle _ idle] at h
  rw [issue_of_decode_ok (decode_keysched k), exec_keysched_of_idle _ idle'] at h'
  obtain rfl := Host.Outcome.next.inj h
  obtain rfl := Host.Outcome.next.inj h'
  exact ⟨rfl, expand k, rfl, fun _ => wordAt_expand_keyWord k⟩

/-- Settles O24, from the two cases of the command and the registers of the two corner keys. -/
theorem keyschedCommand : Obligations.KeyschedCommand := by
  refine ⟨decode_keysched, fun k s => exec_keysched_of_idle k, fun k s busy => (Faults.keysched k busy).exec_eq,
    fun k s t idle h => ?_, expand_allZero, expand_allOnes, by decide⟩
  obtain rfl := Host.Outcome.next.inj ((exec_keysched_of_idle k idle).symm.trans h)
  exact ⟨rfl, rfl, Eq.symm⟩

end Sys2Proof.Machine
end

section
/-! The reverse schedule (R140, R141, R143): where each word of `reverse(S)` comes from, by its row and column. -/

namespace Sys2Proof.Machine

/-! ### The three kinds of columns -/

theorem wordAt_reverse (S : Schedule) {n : Nat} (hn : n < 52) : wordAt (reverse S) n = reverseWord S ⟨n, hn⟩ := by
  rw [wordAt_eq_getElem _ hn, reverse_getElem]

theorem row_and_column (i : Nat) {c : Nat} (hc : c < 6) : (6 * i + c) / 6 = i ∧ (6 * i + c) % 6 = c := by
  omega

/-- The source column of an additive column 1 or 2: itself in the first and the last row, else the other one
(`2 - s` and `1 + s` of R140). -/
def additiveSource (i c : Nat) : Nat := if i % 8 = 0 then c else 3 - c

theorem additiveSource_range (i : Nat) {c : Nat} (hc : c = 1 ∨ c = 2) :
    additiveSource i c = 1 ∨ additiveSource i c = 2 := by
  unfold additiveSource
  split <;> omega

/-- Columns 0 and 3 are inverted for multiplication (R140). -/
theorem wordAt_reverse_multiplicative (S : Schedule) {i c : Nat} (hi : i ≤ 8) (hc : c = 0 ∨ c = 3) :
    wordAt (reverse S) (6 * i + c) = mulinv (wordAt S (6 * (8 - i) + c)) := by
  obtain ⟨hrow, hcol⟩ := row_and_column i (c := c) (by omega)
  rw [wordAt_reverse S (by omega), wordAt_eq_getElem S (by omega)]
  obtain rfl | rfl := hc <;> simp only [reverseWord, hrow, hcol]

/-- Columns 1 and 2 are inverted for addition (R140). -/
theorem wordAt_reverse_additive (S : Schedule) {i c : Nat} (hi : i ≤ 8) (hc : c = 1 ∨ c = 2) :
    wordAt (reverse S) (6 * i + c) = addinv (wordAt S (6 * (8 - i) + additiveSource i c)) := by
  have hsrc := additiveSource_range i hc
  obtain ⟨hrow, hcol⟩ := row_and_column i (c := c) (by omega)
  rw [wordAt_reverse S (by omega), wordAt_eq_getElem S (by omega)]
  obtain rfl | rfl := hc <;> by_cases hend : i % 8 = 0 <;>
    simp [reverseWord, rowSwap, additiveSource, hrow, hcol, hend]

/-- Columns 4 and 5 are carried over (R140). -/
theorem wordAt_reverse_carried (S : Schedule) {i c : Nat} (hi : i < 8) (hc : c = 4 ∨ c = 5) :
    wordAt (reverse S) (6 * i + c) = wordAt S (6 * (7 - i) + c) := by
  obtain ⟨hrow, hcol⟩ := row_and_column i (c := c) (by omega)
  rw [wordAt_reverse S (by omega), wordAt_eq_getElem S (by omega)]
  obtain rfl | rfl := hc <;> simp only [reverseWord, hrow, hcol]

/-! ### The involution -/

@[simp] theorem addinv_addinv (x : Word) : addinv (addinv x) = x := by
  rw [addinv_eq_neg, addinv_eq_neg, BitVec.neg_neg]

/-- The exchange of the additive columns is its own inverse, and row `8 - i` exchanges them when row `i` does
(R143). -/
theorem additiveSource_additiveSource {i c : Nat} (hi : i ≤ 8) (hc : c = 1 ∨ c = 2) :
    additiveSource (8 - i) (additiveSource i c) = c := by
  unfold additiveSource
  split <;> split <;> omega

/-- Settles O26: each kind of column goes back to its row, and each inverse is an involution. -/
theorem reverseIsAnInvolution : Obligations.ReverseIsAnInvolution := by
  refine fun S => schedule_ext fun n hn => ?_
  obtain ⟨i, c, hi, rfl, hcol⟩ : ∃ i c, i ≤ 8 ∧ n = 6 * i + c ∧
      ((c = 0 ∨ c = 3) ∨ (c = 1 ∨ c = 2) ∨ i < 8 ∧ (c = 4 ∨ c = 5)) :=
    ⟨n / 6, n % 6, by omega, by omega, by omega⟩
  have hback : 8 - (8 - i) = i := by omega
  obtain hc | hc | ⟨hlt, hc⟩ := hcol
  · rw [wordAt_reverse_multiplicative _ hi hc, wordAt_reverse_multiplicative _ (by omega) hc, hback,
      mulinv_mulinv]
  · rw [wordAt_reverse_additive _ hi hc, wordAt_reverse_additive _ (by omega) (additiveSource_range i hc), hback,
      additiveSource_additiveSource hi hc, addinv_addinv]
  · have hback7 : 7 - (7 - i) = i := by omega
    rw [wordAt_reverse_carried _ hlt hc, wordAt_reverse_carried _ (by omega) hc, hback7]

/-! ### Rows -/

/-- The four words of row `i` that are combined with the words of the block, `Z[6i .. 6i+3]` (R33). -/
def rowKeys (Z : Schedule) (i : Nat) : Quad :=
  { x0 := wordAt Z (6 * i + 0), x1 := wordAt Z (6 * i + 1), x2 := wordAt Z (6 * i + 2), x3 := wordAt Z (6 * i + 3) }

/-- Inverses for multiplication and addition of the four words of a row. -/
def Quad.inverseKeys (k : Quad) : Quad :=
  { x0 := mulinv k.x0, x1 := addinv k.x1, x2 := addinv k.x2, x3 := mulinv k.x3 }

/-- The exchange of the two middle words. -/
def Quad.swapMiddle (x : Quad) : Quad := { x with x1 := x.x2, x2 := x.x1 }

@[simp] theorem Quad.swapMiddle_swapMiddle (x : Quad) : x.swapMiddle.swapMiddle = x := rfl

/-- The first and the last row are inverted in place (R140, `s = 1`). -/
theorem rowKeys_reverse_of_end (S : Schedule) {i : Nat} (hi : i ≤ 8) (hend : i % 8 = 0) :
    rowKeys (reverse S) i = (rowKeys S (8 - i)).inverseKeys := by
  simp only [rowKeys, Quad.inverseKeys, wordAt_reverse_multiplicative S hi, wordAt_reverse_additive S hi,
    additiveSource, hend, if_true, true_or, or_true]

/-- The other rows are inverted with their middle words exchanged (R140, `s = 0`). -/
theorem rowKeys_reverse_of_inner (S : Schedule) {i : Nat} (hi : i ≤ 8) (hinner : i % 8 ≠ 0) :
    rowKeys (reverse S) i = (rowKeys S (8 - i)).inverseKeys.swapMiddle := by
  simp only [rowKeys, Quad.inverseKeys, Quad.swapMiddle, wordAt_reverse_multiplicative S hi,
    wordAt_reverse_additive S hi, additiveSource, hinner, if_false, true_or, or_true, Nat.reduceSub]

/-- The words of a quad in order. -/
def Quad.words (x : Quad) : List Word := [x.x0, x.x1, x.x2, x.x3]

/-- The two words of row `i` that stand behind its `rowKeys`, `Z[6i+4]` and `Z[6i+5]` (R33). -/
def carriedWords (Z : Schedule) (i : Nat) : List Word := [wordAt Z (6 * i + 4), wordAt Z (6 * i + 5)]

theorem carriedWords_reverse (S : Schedule) {i : Nat} (hi : i < 8) :
    carriedWords (reverse S) i = carriedWords S (7 - i) := by
  simp only [carriedWords, wordAt_reverse_carried S hi, true_or, or_true]

theorem toList_eq_map_wordAt (Z : Schedule) : Z.toList = (List.range 52).map (wordAt Z) := by
  refine List.ext_getElem (by simp) fun n hn _ => ?_
  rw [List.getElem_map, List.getElem_range, wordAt_eq_getElem Z (by simpa using hn), Vector.getElem_toList]

/-- A schedule is its rows, of which the last has four words (R33). -/
theorem toList_eq_rows (Z : Schedule) :
    Z.toList = ([0, 1, 2, 3, 4, 5, 6, 7].flatMap fun i => (rowKeys Z i).words ++ carriedWords Z i) ++
      (rowKeys Z 8).words :=
  toList_eq_map_wordAt Z

/-- `2 - s` and `1 + s` of R140, as offsets in row `8 - i`. -/
theorem additiveSource_offsets (i r : Nat) :
    r + additiveSource i 1 = r + 2 - (if i % 8 = 0 then 1 else 0) ∧
      r + additiveSource i 2 = r + 1 + (if i % 8 = 0 then 1 else 0) := by
  unfold additiveSource
  split <;> omega

/-- Settles O25: the rule by its three kinds of columns, the table by the rule for its nine rows. -/
theorem reverseScheduleRows : Obligations.ReverseScheduleRows := by
  refine ⟨fun S i hi => ?_, fun E => ?_⟩
  · obtain ⟨hone, htwo⟩ := additiveSource_offsets i (6 * (8 - i))
    refine ⟨wordAt_reverse_multiplicative S hi (.inl rfl), ?_, ?_,
      wordAt_reverse_multiplicative S hi (.inr rfl), fun hne => ?_⟩
    · rw [wordAt_reverse_additive S hi (.inl rfl), hone]
    · rw [wordAt_reverse_additive S hi (.inr rfl), htwo]
    · have hlt : i < 8 := by omega
      exact ⟨wordAt_reverse_carried S hlt (.inl rfl), wordAt_reverse_carried S hlt (.inr rfl)⟩
  · rw [toList_eq_rows]
    simp (disch := decide) only [List.flatMap_cons, List.flatMap_nil, rowKeys_reverse_of_end,
      rowKeys_reverse_of_inner, carriedWords_reverse]
    simp only [← wordAt_eq_getElem]
    rfl

end Sys2Proof.Machine
end

section
/-! The block transform under the reverse schedule (R142). A round mixes the words of the block with the four keys
of its row, combines them with the two others and exchanges the middle words; the combination undoes itself, so
the rounds of the reverse schedule undo those of the schedule from the last one back. -/

namespace Sys2Proof.Machine

/-! ### The parts of a round -/

/-- The words of a block with the keys of a row: the start of a round (R160) and, behind the exchange, the whole
of the output transform (R161). -/
def Quad.mix (x k : Quad) : Quad :=
  { x0 := mul x.x0 k.x0, x1 := x.x1 + k.x1, x2 := x.x2 + k.x2, x3 := mul x.x3 k.x3 }

/-- `g` and `j` of R160 as functions of `e` and `f`, as the words XORed in: `j` and `m = g + j`. -/
def combination (e f k4 k5 : Word) : Word × Word :=
  let g := mul e k4
  let j := mul (f + g) k5
  (j, g + j)

/-- The rest of a round but for its exchange of the middle words (R160). -/
def Quad.combine (x : Quad) (k4 k5 : Word) : Quad :=
  let p := combination (x.x0 ^^^ x.x2) (x.x1 ^^^ x.x3) k4 k5
  { x0 := x.x0 ^^^ p.1, x1 := x.x1 ^^^ p.2, x2 := x.x2 ^^^ p.1, x3 := x.x3 ^^^ p.2 }

/-- Round `i` under the schedule `Z`. -/
def roundUnder (Z : Schedule) (i : Nat) (x : Quad) : Quad :=
  ((x.mix (rowKeys Z i)).combine (wordAt Z (6 * i + 4)) (wordAt Z (6 * i + 5))).swapMiddle

theorem roundOf_eq_roundUnder (Z : Schedule) (x : Quad) (r : Fin 8) : roundOf Z x r = roundUnder Z r x := by
  have hr := r.isLt
  simp only [roundOf, ← wordAt_eq_getElem]
  rfl

/-- The output transform is the mixing with row 8 of the words with the last exchange undone (R161). -/
theorem outputStep_eq_mix (Z : Schedule) (x : Quad) :
    outputStep x Z[48] Z[49] Z[50] Z[51] = x.swapMiddle.mix (rowKeys Z 8) := by
  simp only [← wordAt_eq_getElem]
  rfl

/-- The words of the block after `n` rounds. -/
def afterRounds (Z : Schedule) (x : Quad) : Nat → Quad
  | 0 => x
  | n + 1 => roundUnder Z n (afterRounds Z x n)

theorem afterRounds_zero (Z : Schedule) (x : Quad) : afterRounds Z x 0 = x := rfl

theorem afterRounds_succ (Z : Schedule) (x : Quad) (n : Nat) :
    afterRounds Z x (n + 1) = roundUnder Z n (afterRounds Z x n) := rfl

theorem eightRounds_eq_afterRounds (x : Quad) (Z : Schedule) : eightRounds x Z = afterRounds Z x 8 := by
  simp only [eightRounds, roundOrder, List.foldl, roundOf_eq_roundUnder]
  rfl

theorem quadOfBlock_transform (blk : Block) (Z : Schedule) :
    quadOfBlock (transform blk Z) = (afterRounds Z (quadOfBlock blk) 8).swapMiddle.mix (rowKeys Z 8) := by
  rw [transform, quadOfBlock_blockOfQuad, outputStep_eq_mix, eightRounds_eq_afterRounds]

/-! ### Undoing them -/

theorem mul_mul_mulinv (x k : Word) : mul (mul x k) (mulinv k) = x := by
  rw [Machine.mul_assoc, mul_mulinv, Machine.mul_one]

theorem add_add_addinv (x k : Word) : x + k + addinv k = x := by
  rw [addinv_eq_neg, ← BitVec.sub_eq_add_neg, BitVec.add_sub_cancel]

theorem Quad.mix_mix_inverseKeys (x k : Quad) : (x.mix k).mix k.inverseKeys = x := by
  simp only [Quad.mix, Quad.inverseKeys, mul_mul_mulinv, add_add_addinv]

theorem Quad.mix_swapMiddle (x k : Quad) : x.swapMiddle.mix k.swapMiddle = (x.mix k).swapMiddle := rfl

theorem xor_xor_cancel (a p : Word) : a ^^^ p ^^^ p = a := by
  rw [BitVec.xor_assoc, BitVec.xor_self, BitVec.xor_zero]

/-- XORing one word into both leaves their XOR. -/
theorem xor_xor_xor_cancel (a b p : Word) : (a ^^^ p) ^^^ (b ^^^ p) = a ^^^ b := by
  rw [BitVec.xor_comm b p, ← BitVec.xor_assoc, xor_xor_cancel]

/-- The words XORed in depend on XORs they leave unchanged, so a second combination takes them out again. -/
theorem Quad.combine_combine (x : Quad) (k4 k5 : Word) : (x.combine k4 k5).combine k4 k5 = x := by
  simp only [Quad.combine, xor_xor_xor_cancel, xor_xor_cancel]

/-- Row 0 or 8 of the reverse schedule undoes the mixing with row 8 or 0. -/
theorem mix_rowKeys_reverse_of_end (Z : Schedule) {i n : Nat} (h : i + n = 8) (hend : i % 8 = 0) (x : Quad) :
    (x.mix (rowKeys Z n)).mix (rowKeys (reverse Z) i) = x := by
  obtain rfl : n = 8 - i := by omega
  rw [rowKeys_reverse_of_end Z (by omega) hend, Quad.mix_mix_inverseKeys]

/-- Another row of the reverse schedule undoes the mixing with its source row behind the exchange. -/
theorem mix_rowKeys_reverse_of_inner (Z : Schedule) {i n : Nat} (h : i + n = 8) (hinner : i % 8 ≠ 0) (x : Quad) :
    (x.mix (rowKeys Z n)).swapMiddle.mix (rowKeys (reverse Z) i) = x.swapMiddle := by
  obtain rfl : n = 8 - i := by omega
  rw [rowKeys_reverse_of_inner Z (by omega) hinner, Quad.mix_swapMiddle, Quad.mix_mix_inverseKeys]

/-- One round undone: once the mixing of round `i` has given the words round `n` had combined, its combination,
with the words carried over from round `n`, gives those that round had mixed. -/
theorem roundUnder_reverse {Z : Schedule} {i n : Nat} (h : i + n = 7) {x y : Quad}
    (hmix : y.mix (rowKeys (reverse Z) i) = (roundUnder Z n x).swapMiddle) :
    roundUnder (reverse Z) i y = (x.mix (rowKeys Z n)).swapMiddle := by
  obtain rfl : n = 7 - i := by omega
  have hi : i < 8 := by omega
  rw [roundUnder, hmix, wordAt_reverse_carried Z hi (.inl rfl), wordAt_reverse_carried Z hi (.inr rfl),
    roundUnder, Quad.swapMiddle_swapMiddle, Quad.combine_combine]

/-- The rounds of the reverse schedule, begun with the words the output transform leaves, undo the rounds of the
schedule from the last one back. -/
theorem afterRounds_reverse (Z : Schedule) (x : Quad) {i n : Nat} (h : i + n = 7) :
    afterRounds (reverse Z) ((afterRounds Z x 8).swapMiddle.mix (rowKeys Z 8)) (i + 1) =
      ((afterRounds Z x n).mix (rowKeys Z n)).swapMiddle := by
  induction i generalizing n with
  | zero =>
    obtain rfl : n = 7 := by omega
    rw [afterRounds_succ, afterRounds_zero]
    apply roundUnder_reverse h
    rw [mix_rowKeys_reverse_of_end Z rfl rfl, afterRounds_succ]
  | succ i ih =>
    have hprev : i + (n + 1) = 7 := by omega
    rw [afterRounds_succ, ih hprev]
    apply roundUnder_reverse h
    rw [mix_rowKeys_reverse_of_inner Z (by omega) (by omega), afterRounds_succ]

/-- Any schedule's transform is undone under the reverse of the schedule. -/
theorem transform_transform_reverse (x : Block) (Z : Schedule) : transform (transform x Z) (reverse Z) = x := by
  have hquad : quadOfBlock (transform (transform x Z) (reverse Z)) = quadOfBlock x := by
    rw [quadOfBlock_transform, quadOfBlock_transform, afterRounds_reverse Z _ (Nat.add_zero 7),
      Quad.swapMiddle_swapMiddle, mix_rowKeys_reverse_of_end Z rfl rfl, afterRounds_zero]
  rw [← blockOfQuad_quadOfBlock (transform _ _), hquad, blockOfQuad_quadOfBlock]

/-- Settles O28, for every schedule and so for an expanded key; in the other order since the reverse of the
reverse is the schedule itself. -/
theorem decryptionUndoesEncryption : Obligations.DecryptionUndoesEncryption := by
  refine fun k x => ⟨transform_transform_reverse x (expand k), ?_⟩
  have h := transform_transform_reverse x (reverse (expand k))
  rwa [reverseIsAnInvolution (expand k)] at h

end Sys2Proof.Machine
end

section
/-! The command REVSCHED (R144). -/

namespace Sys2Proof.Machine

theorem exec_revsched_of_present {s : State} {ek : Schedule} (hek : s.EK = some ek) :
    exec .revsched s = .next { s with DK := some (reverse ek) } :=
  (Effect.revsched hek).exec_eq

/-- Settles O27, from the two cases of the command: EK is unchanged, so a second one writes the same DK. The
schedules of its corner cases and its example are evaluated. -/
theorem revschedCommand : Obligations.RevschedCommand := by
  refine ⟨decode_revsched, fun s ek => exec_revsched_of_present, fun s absent => ?_, fun s t present h => ?_,
    by decide, by decide, by decide, by decide⟩
  · exact (Faults.revsched (s.EKV_eq_false_iff.mp absent)).exec_eq
  · obtain ⟨ek, hek⟩ := s.EKV_eq_true_iff.mp present
    obtain rfl := Host.Outcome.next.inj ((exec_revsched_of_present hek).symm.trans h)
    exact ⟨rfl, exec_revsched_of_present hek⟩

end Sys2Proof.Machine
end

section
/-! The block transform as a permutation (R163), and the commands XFORM_E and XFORM_D (R166, R167): each runs it on
one block, outside any chaining. -/

namespace Sys2Proof.Machine

/-! ### The permutation -/

/-- The reverse of a schedule is undone under the schedule itself, whose reverse's reverse it is (R143). -/
theorem transform_reverse_transform (x : Block) (Z : Schedule) : transform (transform x (reverse Z)) Z = x := by
  have h := transform_transform_reverse x (reverse Z)
  rwa [reverseIsAnInvolution Z] at h

/-- Settles O29: the transform under the reversed schedule is its inverse on both sides. -/
theorem transformIsAPermutation : Obligations.TransformIsAPermutation := by
  intro Z
  have left : Function.LeftInverse (transform · (reverse Z)) (transform · Z) :=
    fun x => transform_transform_reverse x Z
  have right : Function.RightInverse (transform · (reverse Z)) (transform · Z) :=
    fun x => transform_reverse_transform x Z
  exact ⟨⟨left.injective, right.surjective⟩, left⟩

/-! ### XFORM_E -/

theorem exec_xformE_of_present (blk : Block) {s : State} {ek : Schedule} (hek : s.EK = some ek) :
    exec (.xformE blk) s = .next (s.setDout (transform blk ek)) :=
  (Effect.xformE blk hek).exec_eq

theorem exec_blockEnc_of_present (raw : Block) {s : State} {ek : Schedule} (mode : s.MODE = .ENC)
    (hek : s.EK = some ek) :
    exec (.block raw) s = .next ((s.setDout (transform (raw ^^^ s.FA ^^^ s.FB) ek)).setFeedback
      (raw ^^^ s.FA ^^^ s.FB) (transform (raw ^^^ s.FA ^^^ s.FB) ek)) :=
  (Effect.blockEnc raw mode hek).exec_eq

/-- The example of R166. -/
theorem transform_example :
    transform 0x0000000100020003#64 (expand 0x00010002000300040005000600070008#128) =
      0x11FBED2B01986DE5#64 := by decide

/-- Settles O30, from the two cases of the command; with zero feedback the masked block of BLOCK is the block
itself. The corner cases are those of the schedules with one word throughout. -/
theorem xformECommand : Obligations.XformECommand := by
  refine ⟨decode_xformE, fun blk s ek => exec_xformE_of_present blk, fun blk s absent => ?_,
    fun blk s t u present mode hFA hFB ht hu => ?_, ?_, ?_, transform_example⟩
  · exact (Faults.xformE blk (s.EKV_eq_false_iff.mp absent)).exec_eq
  · obtain ⟨ek, hek⟩ := s.EKV_eq_true_iff.mp present
    obtain rfl := Host.Outcome.next.inj ((exec_xformE_of_present blk hek).symm.trans ht)
    obtain rfl := Host.Outcome.next.inj ((exec_blockEnc_of_present blk mode hek).symm.trans hu)
    have unmasked : blk ^^^ s.FA ^^^ s.FB = blk := by
      rw [hFA, hFB, BitVec.xor_zero, BitVec.xor_zero]
    rw [State.setFeedback_DOUT, State.setDout_DOUT, State.setDout_DOUT, unmasked]
  · rw [expand_allZero]
    decide
  · rw [expand_allOnes]
    decide

/-! ### XFORM_D -/

theorem exec_xformD_of_present (blk : Block) {s : State} {dk : Schedule} (hdk : s.DK = some dk) :
    exec (.xformD blk) s = .next (s.setDout (transform blk dk)) :=
  (Effect.xformD blk hdk).exec_eq

/-- The all-zero key has one schedule for both directions (R144). -/
theorem reverse_expand_allZero : reverse (expand 0#128) = expand 0#128 := by
  obtain ⟨-, -, -, -, hzero, -⟩ := revschedCommand
  rw [expand_allZero, hzero]

/-- XFORM_D undoes XFORM_E wherever DK is the reverse of EK (R142, R36(a)). -/
theorem xformD_undoes_xformE {x : Block} {s t u : State} (matched : s.dkMatchesEk) (present : s.DKV = true)
    (ht : exec (.xformE x) s = .next t) (hu : exec (.xformD t.DOUT) t = .next u) : u.DOUT = x := by
  obtain ⟨dk, hdk⟩ := s.DKV_eq_true_iff.mp present
  obtain ⟨ek, hek, rfl⟩ := matched dk hdk
  obtain rfl := Host.Outcome.next.inj ((exec_xformE_of_present x hek).symm.trans ht)
  have kept : (s.setDout (transform x ek)).DK = some (reverse ek) := hdk
  obtain rfl := Host.Outcome.next.inj ((exec_xformD_of_present _ kept).symm.trans hu)
  exact transform_transform_reverse x ek

/-- Settles O31, from the two cases of the command and the round trip; the example is that of XFORM_E undone. -/
theorem xformDCommand : Obligations.XformDCommand := by
  refine ⟨decode_xformD, fun blk s dk => exec_xformD_of_present blk, fun blk s absent => ?_,
    fun k s t h idle => ?_, fun x s t u inv => xformD_undoes_xformE inv.dkMatchesEk, fun x => ?_, ?_⟩
  · exact (Faults.xformD blk (s.DKV_eq_false_iff.mp absent)).exec_eq
  · exact t.DKV_eq_false_iff.mpr (execKeysched_DK_of_idle idle h)
  · rw [reverse_expand_allZero]
  · rw [← transform_example, transform_transform_reverse]

end Sys2Proof.Machine
end

section
/-! The chaining commands (R190 to R195, R197): START_E, START_D, END and NOP, and the two directions of BLOCK. -/

namespace Sys2Proof.Machine

/-- END in an IDLE state finds the feedback already zero (R36(c), R195). -/
theorem State.beginMode_idle_of_inv {s : State} (hs : s.Inv) (idle : s.MODE = .IDLE) :
    s.beginMode .IDLE = s := by
  obtain ⟨hFA, hFB⟩ := hs.idleFeedbackZero idle
  obtain ⟨EK, DK, FA, FB, DOUT, MODE, FAULT, pending⟩ := s
  subst idle hFA hFB
  rfl

/-- Settles O32: each command is its constructor of `Effect`. -/
theorem startEndAndNopCommands : Obligations.StartEndAndNopCommands :=
  ⟨fun d => ⟨decode_startE d, decode_startD d, decode_endChain d, decode_nop d⟩,
    fun s => (Effect.startE s).exec_eq, fun s => (Effect.startD s).exec_eq,
    fun s => (Effect.endChain s).exec_eq,
    fun s hs idle => (Effect.endChain s).exec_eq.trans (congrArg _ (s.beginMode_idle_of_inv hs idle)),
    fun s => (Effect.nop s).exec_eq⟩

/-- BLOCK writes no MODE (R28, R192). -/
theorem exec_block_MODE {raw : Block} {s t : State} (h : exec (.block raw) s = .next t) :
    t.MODE = s.MODE := by
  obtain ⟨-, -, -, -, hMODE, -⟩ := registersHaveOnlyTheirWriters _ s t h
  by_contra hne
  simpa using hMODE hne

/-- Settles O33, by the mode. -/
theorem blockCommandDispatch : Obligations.BlockCommandDispatch :=
  ⟨decode_block, fun raw _ idle => (Faults.blockIdle raw idle).exec_eq,
    fun raw _ mode => exec_block_of_enc mode raw, fun raw _ mode => exec_block_of_dec mode raw,
    fun _ _ _ => exec_block_MODE⟩

/-! ### The block under zero feedback -/

/-- Zero feedback masks nothing. -/
theorem xor_zero_feedback (b : Block) : b ^^^ 0#64 ^^^ 0#64 = b := by
  rw [BitVec.xor_zero, BitVec.xor_zero]

/-- The first block of an encryption is transformed as it is (R190, R193). -/
theorem exec_block_first_enc (raw : Block) {s : State} {ek : Schedule} (hek : s.EK = some ek) :
    exec (.block raw) (s.beginMode .ENC) =
      .next (((s.beginMode .ENC).setDout (transform raw ek)).setFeedback raw (transform raw ek)) := by
  have h := exec_blockEnc_of_present raw (s.beginMode_MODE .ENC) hek
  rwa [State.beginMode_FA, State.beginMode_FB, xor_zero_feedback] at h

theorem exec_blockDec_of_present (raw : Block) {s : State} {dk : Schedule} (mode : s.MODE = .DEC)
    (hdk : s.DK = some dk) :
    exec (.block raw) s = .next ((s.setDout (transform raw dk ^^^ s.FA ^^^ s.FB)).setFeedback raw
      (transform raw dk ^^^ s.FA ^^^ s.FB)) :=
  (Effect.blockDec raw mode hdk).exec_eq

/-- The first block of a decryption is the transform's value as it is (R191, R194). -/
theorem exec_block_first_dec (raw : Block) {s : State} {dk : Schedule} (hdk : s.DK = some dk) :
    exec (.block raw) (s.beginMode .DEC) =
      .next (((s.beginMode .DEC).setDout (transform raw dk)).setFeedback raw (transform raw dk)) := by
  have h := exec_blockDec_of_present raw (s.beginMode_MODE .DEC) hdk
  rwa [State.beginMode_FA, State.beginMode_FB, xor_zero_feedback] at h

/-- A block equal to the mask is masked to zero (R193). -/
theorem exec_block_of_mask {s t : State} {ek : Schedule} (mode : s.MODE = .ENC) (hek : s.EK = some ek)
    (h : exec (.block (s.FA ^^^ s.FB)) s = .next t) : t.FA = 0#64 ∧ t.DOUT = transform 0#64 ek := by
  have masked : s.FA ^^^ s.FB ^^^ s.FA ^^^ s.FB = 0#64 := by rw [BitVec.xor_assoc, BitVec.xor_self]
  rw [exec_blockEnc_of_present _ mode hek, masked] at h
  obtain rfl := Host.Outcome.next.inj h
  exact ⟨rfl, rfl⟩

/-- Settles O34, from the two cases of the command. -/
theorem blockCommandEncrypt : Obligations.BlockCommandEncrypt := by
  refine ⟨fun raw s ek mode hek => exec_blockEnc_of_present raw mode hek, fun raw s mode absent => ?_,
    fun raw s ek hek => exec_block_first_enc raw hek, fun s t ek mode hek => exec_block_of_mask mode hek,
    fun s hek => ?_⟩
  · exact (Faults.blockEnc raw mode (s.EKV_eq_false_iff.mp absent)).exec_eq
  · rw [exec_block_first_enc _ hek, transform_example]
    rfl

/-- Settles O35, from the two cases of the command; the example is that of encryption undone. -/
theorem blockCommandDecrypt : Obligations.BlockCommandDecrypt := by
  refine ⟨fun raw s dk mode hdk => exec_blockDec_of_present raw mode hdk, fun raw s mode absent => ?_,
    fun raw s dk hdk => exec_block_first_dec raw hdk, fun s hdk => ?_⟩
  · exact (Faults.blockDec raw mode (s.DKV_eq_false_iff.mp absent)).exec_eq
  · rw [exec_block_first_dec _ hdk, ← transform_example, transform_transform_reverse]
    rfl

end Sys2Proof.Machine
end

section
/-! The commands that leave a chaining operation under way alone (R198). -/

namespace Sys2Proof.Machine

/-- DK keeps its value when it is the reverse of EK already: KEYSCHED alone could change it (R144). -/
theorem exec_DK_of_matching {i : Instr} {s t : State} {dk : Schedule} (matched : s.dkMatchesEk)
    (hdk : s.DK = some dk) (other : ∀ k, i ≠ .keysched k) (h : exec i s = .next t) : t.DK = s.DK := by
  obtain ⟨-, hDK, -⟩ := registersHaveOnlyTheirWriters i s t h
  by_contra hne
  obtain rfl | ⟨⟨k, hk⟩, -⟩ := hDK hne
  · obtain ⟨ek, hek, rfl⟩ := matched dk hdk
    obtain rfl := Host.Outcome.next.inj ((exec_revsched_of_present hek).symm.trans h)
    exact hne hdk.symm
  · exact other k hk

/-- Two states in which BLOCK has the same output and the same masked or raw block hold the same after it. -/
theorem outputs_agree {i : Instr} {s t u v : State} {out a : Block}
    (ht : exec i t = .next ((t.setDout out).setFeedback a out))
    (hs : exec i s = .next ((s.setDout out).setFeedback a out))
    (hu : exec i t = .next u) (hv : exec i s = .next v) : u.FA = v.FA ∧ u.FB = v.FB ∧ u.DOUT = v.DOUT := by
  obtain rfl := Host.Outcome.next.inj (ht.symm.trans hu)
  obtain rfl := Host.Outcome.next.inj (hs.symm.trans hv)
  exact ⟨rfl, rfl, rfl⟩

/-- Settles O39: none of the commands is a writer of FA, FB, MODE or EK, and REVSCHED writes the DK that is
there, so the next BLOCK finds what it reads unchanged. -/
theorem otherCommandsLeaveTheChainAlone : Obligations.OtherCommandsLeaveTheChainAlone := by
  refine ⟨fun i s t busy allowed h => ?_, fun k s busy => (Faults.keysched k busy).exec_eq⟩
  have other : ∀ k, i ≠ .keysched k := by
    rintro k rfl
    exact allowed
  obtain ⟨hEK, -, hF, -, hMODE, -⟩ := registersHaveOnlyTheirWriters i s t h
  have keptEK : t.EK = s.EK := by
    by_contra hne
    obtain ⟨k, hk⟩ := hEK hne
    exact other k hk
  have keptMODE : t.MODE = s.MODE := by
    by_contra hne
    obtain rfl | rfl | rfl := hMODE hne <;> exact allowed
  have keptF : ¬ (t.FA ≠ s.FA ∨ t.FB ≠ s.FB) := fun hne => by
    obtain rfl | rfl | rfl | ⟨raw, rfl⟩ := hF hne <;> exact allowed
  obtain ⟨keptFA, keptFB⟩ : t.FA = s.FA ∧ t.FB = s.FB := by simpa using keptF
  refine ⟨keptFA, keptFB, keptMODE, keptEK, fun raw u v inv hasEK hasDK hu hv => ?_⟩
  cases mode : s.MODE with
  | IDLE => exact absurd mode busy
  | ENC =>
    obtain ⟨ek, hek⟩ := s.EKV_eq_true_iff.mp (hasEK mode)
    have ht := exec_blockEnc_of_present raw (keptMODE.trans mode) (keptEK.trans hek)
    rw [keptFA, keptFB] at ht
    exact outputs_agree ht (exec_blockEnc_of_present raw mode hek) hu hv
  | DEC =>
    obtain ⟨dk, hdk⟩ := s.DKV_eq_true_iff.mp (hasDK mode)
    have keptDK := exec_DK_of_matching inv.dkMatchesEk hdk other h
    have ht := exec_blockDec_of_present raw (keptMODE.trans mode) (keptDK.trans hdk)
    rw [keptFA, keptFB] at ht
    exact outputs_agree ht (exec_blockDec_of_present raw mode hdk) hu hv

end Sys2Proof.Machine
end

section
/-! A stream encrypted and then decrypted (R196): the runs of its BLOCK commands on the two sides. -/

namespace Sys2Proof.Machine

/-! ### Runs of BLOCK commands -/

/-- The encoder's command runs its instruction. -/
theorem issue_encode (i : Instr) (s : State) : issue (encode i) s = exec i s :=
  issue_of_decode_ok (decode_encode i) s

/-- A run of one BLOCK more, from what the block does and the run of the others (R276). -/
theorem runCommands_blockCommands_cons {b : Block} {bs : List Block} {s t : State} {r : Run}
    (h : exec (.block b) s = .next t) (hr : runCommands (blockCommands bs) t = .next r) :
    runCommands (blockCommands (b :: bs)) s = .next { state := r.state, douts := t.DOUT :: r.douts } := by
  have hissue : issue (encode (.block b)) s = .next t := (issue_encode _ s).trans h
  rw [blockCommands, List.map_cons, runCommands_cons_of_next hissue, ← blockCommands, hr, andThen_next]

/-! ### The difference between the two sides -/

/-- Unmasking a block with other feedback leaves the XOR of the two masks in it. -/
theorem unmask_with_other_feedback (p a b c d : Block) :
    p ^^^ a ^^^ b ^^^ c ^^^ d = p ^^^ (a ^^^ b ^^^ (c ^^^ d)) := by
  simp only [BitVec.xor_assoc]

/-- The ciphertext is in the feedback of both sides, so it drops out of their difference. -/
theorem difference_of_feedback (m c p e : Block) : m ^^^ c ^^^ (c ^^^ (p ^^^ e)) = e ^^^ m ^^^ p := by
  calc m ^^^ c ^^^ (c ^^^ (p ^^^ e)) = m ^^^ (c ^^^ c) ^^^ (p ^^^ e) := by simp only [BitVec.xor_assoc]
    _ = e ^^^ m ^^^ p := by rw [BitVec.xor_self, BitVec.xor_zero]; ac_rfl

/-- Encrypting blocks and decrypting the result with the reverse schedule, whatever feedback the two sides hold:
each block comes back XORed with its difference, which begins as the XOR of the four registers (R196). -/
theorem runCommands_blockCommands_roundTrip (ps : List Block) {s u : State} {ek : Schedule}
    (enc : s.MODE = .ENC) (hek : s.EK = some ek) (dec : u.MODE = .DEC) (hdk : u.DK = some (reverse ek)) :
    ∃ rE rD, runCommands (blockCommands ps) s = .next rE ∧ runCommands (blockCommands rE.douts) u = .next rD ∧
      rE.douts.length = ps.length ∧
      rD.douts = List.zipWith (· ^^^ ·) ps
        (divergence (s.FA ^^^ s.FB ^^^ (u.FA ^^^ u.FB)) s.FA s.FB ps rE.douts) := by
  induction ps generalizing s u with
  | nil => exact ⟨_, _, rfl, rfl, rfl, rfl⟩
  | cons p ps ih =>
    have hE := exec_blockEnc_of_present p enc hek
    have hD := exec_blockDec_of_present (transform (p ^^^ s.FA ^^^ s.FB) ek) dec hdk
    rw [transform_transform_reverse, unmask_with_other_feedback] at hD
    obtain ⟨rE, rD, hrE, hrD, hlen, hdouts⟩ := ih
      (s := (s.setDout (transform (p ^^^ s.FA ^^^ s.FB) ek)).setFeedback _ _)
      (u := (u.setDout (p ^^^ (s.FA ^^^ s.FB ^^^ (u.FA ^^^ u.FB)))).setFeedback _ _) enc hek dec hdk
    refine ⟨_, _, runCommands_blockCommands_cons hE hrE, runCommands_blockCommands_cons hD hrD,
      congrArg (· + 1) hlen, ?_⟩
    rw [hdouts]
    simp only [State.setFeedback_FA, State.setFeedback_FB, State.setFeedback_DOUT, State.setDout_DOUT,
      difference_of_feedback, divergence, List.zipWith_cons_cons]

/-! ### The first three blocks -/

/-- After zero feedback the second block has no difference either (R196). -/
theorem divergence_first (p c : Block) (ps cs : List Block) :
    divergence 0#64 0#64 0#64 (p :: ps) (c :: cs) = 0#64 :: divergence 0#64 p c ps cs := by
  rw [divergence, xor_zero_feedback, BitVec.zero_xor, BitVec.xor_self]

/-- The third block differs by the XOR of the first block and its ciphertext (R196). -/
theorem divergence_second (p1 c1 p c : Block) (ps cs : List Block) :
    divergence 0#64 p1 c1 (p :: ps) (c :: cs) =
      0#64 :: divergence (p1 ^^^ c1) (p ^^^ p1 ^^^ c1) c ps cs := by
  have third : 0#64 ^^^ (p ^^^ p1 ^^^ c1) ^^^ p = p1 ^^^ c1 := by
    calc 0#64 ^^^ (p ^^^ p1 ^^^ c1) ^^^ p = p ^^^ p ^^^ (p1 ^^^ c1) := by rw [BitVec.zero_xor]; ac_rfl
      _ = p1 ^^^ c1 := by rw [BitVec.xor_self, BitVec.zero_xor]
  rw [divergence, third]

/-- Blocks 1 and 2 come back. -/
theorem take_two_zipWith_divergence {ps cs : List Block} (hlen : cs.length = ps.length) :
    (List.zipWith (· ^^^ ·) ps (divergence 0#64 0#64 0#64 ps cs)).take 2 = ps.take 2 := by
  match ps, cs, hlen with
  | [], [], _ => rfl
  | [p], [c], _ =>
    rw [divergence_first]
    simp
  | p1 :: p2 :: ps, c1 :: c2 :: cs, _ =>
    rw [divergence_first, divergence_second]
    simp

/-- Block 3 is off by the XOR of the first block and its ciphertext. -/
theorem getElem?_two_zipWith_divergence {ps cs : List Block} {p1 p2 p3 c1 : Block}
    (hlen : cs.length = ps.length) (hps : ps.take 3 = [p1, p2, p3]) (hcs : cs.head? = some c1) :
    (List.zipWith (· ^^^ ·) ps (divergence 0#64 0#64 0#64 ps cs))[2]? = some (p3 ^^^ (p1 ^^^ c1)) := by
  match ps, cs, hlen with
  | q1 :: q2 :: q3 :: ps, d1 :: d2 :: d3 :: cs, _ =>
    simp only [List.take_succ_cons, List.take_zero, List.cons.injEq, and_true] at hps
    obtain ⟨rfl, rfl, rfl⟩ := hps
    obtain rfl := Option.some.inj hcs
    rw [divergence_first, divergence_second]
    rfl

/-! ### A stream from its start -/

/-- Encrypting and decrypting from START_E and START_D on: the recurrence, begun at zero (R196). -/
theorem runCommands_blockCommands_beginMode (ps : List Block) {s u : State} {ek : Schedule}
    (hek : s.EK = some ek) (hdk : u.DK = some (reverse ek)) :
    ∃ rE rD, runCommands (blockCommands ps) (s.beginMode .ENC) = .next rE ∧
      runCommands (blockCommands rE.douts) (u.beginMode .DEC) = .next rD ∧ rE.douts.length = ps.length ∧
      rD.douts = List.zipWith (· ^^^ ·) ps (divergence 0#64 0#64 0#64 ps rE.douts) := by
  have h := runCommands_blockCommands_roundTrip ps (s.beginMode_MODE .ENC) hek (u.beginMode_MODE .DEC) hdk
  simp only [State.beginMode_FA, State.beginMode_FB, BitVec.xor_zero] at h
  exact h

theorem exec_block_started_enc (p : Block) (s : State) (k : Key) :
    exec (.block p) (s.started k .ENC) = .next (((s.started k .ENC).setDout (transform p (expand k))).setFeedback
      p (transform p (expand k))) :=
  exec_block_first_enc p (s := s.started k .ENC) rfl

theorem exec_block_started_dec (c : Block) (s : State) (k : Key) :
    exec (.block c) (s.started k .DEC) =
      .next (((s.started k .DEC).setDout (transform c (reverse (expand k)))).setFeedback
        c (transform c (reverse (expand k)))) :=
  exec_block_first_dec c (s := s.started k .DEC) rfl

/-- The first ciphertext of a stream is the transform of the first block. -/
theorem head?_douts_started_enc {p : Block} {ps : List Block} {s : State} {k : Key} {r : Run}
    (h : runCommands (blockCommands (p :: ps)) (s.started k .ENC) = .next r) :
    r.douts.head? = some (transform p (expand k)) := by
  obtain ⟨t, r', ht, -, rfl⟩ := runCommands_cons_cases h
  rw [issue_encode, exec_block_started_enc] at ht
  obtain rfl := Host.Outcome.next.inj ht
  rfl

/-- R196 for a whole stream: the recurrence, the first two blocks and the third. -/
theorem feedbackAsymmetry_of_stream (k : Key) (ps : List Block) (s : State) :
    ∃ rE rD : Run, runCommands (blockCommands ps) (s.started k .ENC) = .next rE ∧
      runCommands (blockCommands rE.douts) (s.started k .DEC) = .next rD ∧
      rE.douts.length = ps.length ∧
      rD.douts = List.zipWith (· ^^^ ·) ps (divergence 0#64 0#64 0#64 ps rE.douts) ∧
      rD.douts.take 2 = ps.take 2 ∧
      ∀ p1 p2 p3 c1 : Block, ps.take 3 = [p1, p2, p3] → rE.douts.head? = some c1 →
        rD.douts[2]? = some (p3 ^^^ (p1 ^^^ c1)) := by
  obtain ⟨rE, rD, hE, hD, hlen, hdouts⟩ := runCommands_blockCommands_beginMode ps
    (s := s.started k .ENC) (u := s.started k .DEC) (ek := expand k) rfl rfl
  refine ⟨rE, rD, hE, hD, hlen, hdouts, ?_, fun p1 p2 p3 c1 hps hc => ?_⟩
  · rw [hdouts, take_two_zipWith_divergence hlen]
  · rw [hdouts, getElem?_two_zipWith_divergence hlen hps hc]

/-- The stream that begins with the block of the example of R166 loses its third block, as the ciphertext of the
first is another block. -/
theorem exists_third_block_lost :
    ∃ (k : Key) (ps : List Block), ps.length = 3 ∧ ∀ (s : State) (rE rD : Run),
      runCommands (blockCommands ps) (s.started k .ENC) = .next rE →
      runCommands (blockCommands rE.douts) (s.started k .DEC) = .next rD → rD.douts[2]? ≠ ps[2]? := by
  refine ⟨0x00010002000300040005000600070008#128, [0x0000000100020003#64, 0#64, 0#64], rfl,
    fun s rE rD hE hD => ?_⟩
  have hhead := head?_douts_started_enc hE
  rw [transform_example] at hhead
  obtain ⟨rE', rD', hE', hD', -, -, -, hthird⟩ := feedbackAsymmetry_of_stream _ _ s
  obtain rfl := Host.Outcome.next.inj (hE.symm.trans hE')
  obtain rfl := Host.Outcome.next.inj (hD.symm.trans hD')
  rw [hthird _ _ _ _ rfl hhead]
  decide

/-- Settles O38: the stream by the recurrence, the lost block by an example, the registers by the first block of
either side. -/
theorem feedbackAsymmetryOfStreams : Obligations.FeedbackAsymmetryOfStreams := by
  refine ⟨feedbackAsymmetry_of_stream, exists_third_block_lost, fun k p s t u ht hu => ?_⟩
  rw [exec_block_started_enc] at ht
  obtain rfl := Host.Outcome.next.inj ht
  rw [State.setFeedback_DOUT, State.setDout_DOUT, exec_block_started_dec, transform_transform_reverse] at hu
  obtain rfl := Host.Outcome.next.inj hu
  exact ⟨rfl, rfl, rfl, rfl, BitVec.xor_comm _ _⟩

end Sys2Proof.Machine
end

section
/-! The states a PROCESS goes through (R210, R211): opened by its first commands, in the stream, ended. -/

namespace Sys2Proof.Machine

/-! ### Before the first block -/

/-- The DK a PROCESS of key `k` works with: REVSCHED is issued for DEC only (R210). -/
def decryptSchedule (k : Key) : Direction → Option Schedule
  | .ENC => none
  | .DEC => some (reverse (expand k))

theorem decryptSchedule_isSome_iff (k : Key) (dir : Direction) :
    (decryptSchedule k dir).isSome = true ↔ dir = .DEC := by
  cases dir <;> simp [decryptSchedule]

/-- The state `s` with the stream opened: what PROCESS finds when its first block comes (R210). -/
def State.opened (s : State) (k : Key) (dir : Direction) : State :=
  State.beginMode { s with EK := some (expand k), DK := decryptSchedule k dir } (modeOf dir)

/-- The opening commands of a PROCESS open the stream (R210). -/
theorem runCommands_openingInstrs {s : State} (idle : s.MODE = .IDLE) (k : Key) (dir : Direction) :
    ∃ r, runCommands ((openingInstrs k dir).map encode) s = .next r ∧ r.state = s.opened k dir := by
  have hkey : issue (encode (.keysched k)) s = .next { s with EK := some (expand k), DK := none } :=
    (issue_encode _ s).trans (Effect.keysched k idle).exec_eq
  cases dir with
  | ENC => exact ⟨_, runCommands_cons_of_next hkey _, rfl⟩
  | DEC => exact ⟨_, runCommands_cons_of_next hkey _, rfl⟩

/-! ### In the stream and after it -/

/-- The opened stream after some blocks: DOUT and the feedback hold what the last one left. -/
def State.inStream (s : State) (k : Key) (dir : Direction) (dout fa fb : Block) : State :=
  ((s.opened k dir).setDout dout).setFeedback fa fb

/-- Every BLOCK of a stream has the schedule it needs, and leaves the stream open (R211). -/
theorem exec_block_inStream (raw : Block) (s : State) (k : Key) (dir : Direction) (dout fa fb : Block) :
    ∃ dout' fa' fb', exec (.block raw) (s.inStream k dir dout fa fb) =
      .next (s.inStream k dir dout' fa' fb') := by
  cases dir with
  | ENC => exact ⟨_, _, _, exec_blockEnc_of_present raw rfl rfl⟩
  | DEC => exact ⟨_, _, _, exec_blockDec_of_present raw rfl rfl⟩

/-- END is the last command, whatever the result (R210, R242). -/
theorem finishWith_eq (result : ProcessResult) (written : List Byte) (s : State) :
    finishWith result written s =
      .next { state := s.beginMode .IDLE, result := result, written := written } := rfl

/-- One chunk of the loop, when its BLOCK answers next. -/
theorem processLoop_cons_of_next {chunk : List Byte} (hnil : chunk ≠ []) {s t : State}
    (h : exec (.block (blockOfBytes (padChunk chunk))) s = .next t) (reads : List (List Byte))
    (room : Option Nat) (out : List Byte) :
    processLoop (chunk :: reads) room out s =
      if room = some 0 then finishWith (.failure .WriteFailure) (Config.sinkAfterFailure out) t
      else if chunk.length < 8 then
        finishWith (.output (out ++ bytesOfBlock t.DOUT)) (out ++ bytesOfBlock t.DOUT) t
      else processLoop reads (room.map (· - 1)) (out ++ bytesOfBlock t.DOUT) t := by
  rw [processLoop, if_neg hnil, issueInstr, issue_encode, h, andThen_next]

/-- However the loop ends, it ends the open stream with END, and DOUT alone tells how far it went (R211). -/
theorem processLoop_inStream (reads : List (List Byte)) (room : Option Nat) (out : List Byte) (s : State)
    (k : Key) (dir : Direction) (dout fa fb : Block) :
    ∃ r dout', processLoop reads room out (s.inStream k dir dout fa fb) = .next r ∧
      r.state = ((s.opened k dir).setDout dout').beginMode .IDLE := by
  induction reads generalizing room out dout fa fb with
  | nil => exact ⟨_, dout, finishWith_eq .., rfl⟩
  | cons chunk reads ih =>
    by_cases hnil : chunk = []
    · exact ⟨_, dout, by rw [processLoop, if_pos hnil, finishWith_eq], rfl⟩
    · obtain ⟨dout', fa', fb', hblock⟩ :=
        exec_block_inStream (blockOfBytes (padChunk chunk)) s k dir dout fa fb
      rw [processLoop_cons_of_next hnil hblock]
      split
      · exact ⟨_, dout', finishWith_eq .., rfl⟩
      split
      · exact ⟨_, dout', finishWith_eq .., rfl⟩
      · exact ih ..

/-- With a key of 16 bytes and an IDLE core, PROCESS passes all its checks and opens the stream (R210). -/
theorem process_of_idle {key : List Byte} {s : State} (hkey : key.length = 16) (idle : s.MODE = .IDLE)
    (dir : Direction) (src : Source) (sink : Sink) :
    process key dir (some src) (some sink) s =
      processLoop src.reads sink.room [] (s.opened (keyOfBytes key) dir) := by
  obtain ⟨r, hr, hstate⟩ := runCommands_openingInstrs idle (keyOfBytes key) dir
  rw [← hstate, ← processFrom_of_opening hr]
  simp [process, hkey, idle]

/-- How a PROCESS that passes its checks leaves the core, whatever the source and the sink do (R211). -/
theorem process_state {key : List Byte} {s : State} (hkey : key.length = 16) (idle : s.MODE = .IDLE)
    (dir : Direction) (src : Source) (sink : Sink) :
    ∃ r dout, process key dir (some src) (some sink) s = .next r ∧
      r.state = ((s.opened (keyOfBytes key) dir).setDout dout).beginMode .IDLE := by
  rw [process_of_idle hkey idle]
  exact processLoop_inStream src.reads sink.room [] s (keyOfBytes key) dir s.DOUT 0#64 0#64

/-- The commands of a PROCESS from a state without a fault leave none, as PROCESS itself does not (R211, R276). -/
theorem wellBehaved_processInstrs {key : List Byte} {s : State} (hkey : key.length = 16)
    (idle : s.MODE = .IDLE) (noFault : s.FAULT = .NONE) (dir : Direction) (bytes : List Byte) :
    wellBehaved ((processInstrs (keyOfBytes key) dir bytes).map encode) s := by
  obtain ⟨run, r, hrun, hr, hsame, -⟩ := processIsItsCommandSequence key dir s bytes hkey idle
  obtain ⟨r', dout, hr', hstate⟩ := process_state hkey idle dir (.ofBytes bytes) .unlimited
  obtain rfl := Host.Outcome.next.inj (hr.symm.trans hr')
  refine ⟨run, hrun, ?_⟩
  rw [← hsame, hstate]
  exact decide_eq_false (not_not_intro noFault)

/-- Settles O46: the fields of the state an ended stream leaves, and the run of the same commands. -/
theorem processRaisesNoFault : Obligations.ProcessRaisesNoFault := by
  refine fun key dir s hkey idle => ⟨fun src sink => ?_, fun noFault =>
    wellBehaved_processInstrs hkey idle noFault dir⟩
  obtain ⟨r, dout, hr, hstate⟩ := process_state hkey idle dir src sink
  refine ⟨r, hr, ?_⟩
  rw [hstate]
  exact ⟨rfl, rfl, rfl, rfl, rfl, rfl, decryptSchedule_isSome_iff _ dir⟩

end Sys2Proof.Machine
end

section
/-! The output of PROCESS (R212 to R214): the blocks of the run, byte by byte, and a short input's round trip. -/

namespace Sys2Proof.Machine

/-- A PROCESS of bytes is the run of their blocks in the opened stream, and writes the DOUT value of each. -/
theorem processBytes_of_blocks {key : List Byte} {s : State} (hkey : key.length = 16) (idle : s.MODE = .IDLE)
    {dir : Direction} {bytes : List Byte} {r : Run}
    (h : runCommands (blockCommands (streamBlocks bytes)) (s.opened (keyOfBytes key) dir) = .next r) :
    processBytes key dir bytes s =
      .next (outputReport (r.state.beginMode .IDLE) (r.douts.flatMap bytesOfBlock)) := by
  have hcount : (streamBlocks bytes).length = r.douts.length := by
    obtain ⟨r', hr', hlen, -⟩ :=
      runCommands_completes (blockCommands (streamBlocks bytes)) (s.opened (keyOfBytes key) dir)
    obtain rfl := Host.Outcome.next.inj (h.symm.trans hr')
    rw [hlen, blockCommands, List.length_map]
  have hend : runCommands [encode .endChain] r.state =
      .next { state := r.state.beginMode .IDLE, douts := [r.state.DOUT] } := rfl
  have hall := runCommands_append h [encode .endChain]
  rw [hend, andThen_next] at hall
  rw [processBytes, process_of_idle hkey idle]
  exact (processLoop_chunksOf hall).trans (by rw [hcount, List.take_left])

theorem length_bytesOfBlock (b : Block) : (bytesOfBlock b).length = 8 := rfl

theorem length_flatMap_bytesOfBlock (bs : List Block) : (bs.flatMap bytesOfBlock).length = 8 * bs.length := by
  simp [List.length_flatMap, length_bytesOfBlock, Nat.mul_comm]

/-- Settles O47: eight bytes for each block of the stream. -/
theorem processOutputLength : Obligations.ProcessOutputLength := by
  intro key dir s bytes hkey idle
  obtain ⟨r, hr, hlen, -⟩ := runCommands_completes (blockCommands (streamBlocks bytes))
    (s.opened (keyOfBytes key) dir)
  have hout : (r.douts.flatMap bytesOfBlock).length = 8 * ((bytes.length + 7) / 8) := by
    rw [length_flatMap_bytesOfBlock, hlen, blockCommands, List.length_map, streamBlocks, List.length_map,
      length_chunksOf]
  refine ⟨_, _, processBytes_of_blocks hkey idle hr, rfl, rfl, hout, ?_⟩
  rintro rfl
  exact ⟨List.eq_nil_of_length_eq_zero hout, rfl⟩

/-! ### Blocks and the bytes of a stream -/

theorem bytesOfBlock_blockOfBytes {chunk : List Byte} (h : chunk.length = 8) :
    bytesOfBlock (blockOfBytes chunk) = chunk := by
  match chunk, h with
  | [_, _, _, _, _, _, _, _], _ => rw [blockOfBytes_eight, bytesOfBlock_append]

/-- The bytes of blocks are cut into those blocks again (R44). -/
theorem streamBlocks_flatMap_bytesOfBlock (bs : List Block) : streamBlocks (bs.flatMap bytesOfBlock) = bs := by
  induction bs with
  | nil => rfl
  | cons b bs ih =>
    have hlen := length_bytesOfBlock b
    rw [List.flatMap_cons, streamBlocks, chunksOf_full hlen, List.map_cons, padChunk_of_full hlen,
      blockOfBytes_bytesOfBlock, ← streamBlocks, ih]

/-- The bytes of a stream's blocks are the padded stream (R44). -/
theorem flatMap_bytesOfBlock_streamBlocks (s : List Byte) :
    (streamBlocks s).flatMap bytesOfBlock = padStream s := by
  induction s using chunk_induction with
  | nil => rfl
  | short s hnil hlt =>
    rw [streamBlocks, chunksOf_short hnil hlt, padStream_short hnil hlt]
    simp [bytesOfBlock_blockOfBytes (length_padChunk hlt.le)]
  | full chunk rest h ih =>
    rw [streamBlocks, chunksOf_full h, List.map_cons, List.flatMap_cons, ← streamBlocks, ih, padStream_full h,
      padChunk_of_full h, bytesOfBlock_blockOfBytes h]

/-! ### The round trip -/

/-- Decrypting the encryption of at most two blocks gives them back (R196, R213). -/
theorem processBytes_roundTrip {key bytes : List Byte} {s u : State} (hkey : key.length = 16)
    (hidle : s.MODE = .IDLE) (uidle : u.MODE = .IDLE) (short : (streamBlocks bytes).length ≤ 2) :
    ∃ r r' cipher, processBytes key .ENC bytes s = .next r ∧ r.result = .output cipher ∧
      processBytes key .DEC cipher u = .next r' ∧ r'.result = .output (padStream bytes) := by
  obtain ⟨rE, rD, hE, hD, hlen, hdouts⟩ := runCommands_blockCommands_beginMode (streamBlocks bytes)
    (s := s.opened (keyOfBytes key) .ENC) (u := u.opened (keyOfBytes key) .DEC) rfl rfl
  have hback : rD.douts = streamBlocks bytes := by
    have htwo := take_two_zipWith_divergence hlen
    have hshort : rD.douts.length ≤ 2 := by
      rw [hdouts, List.length_zipWith]
      omega
    rwa [← hdouts, List.take_of_length_le hshort, List.take_of_length_le short] at htwo
  have hcut := streamBlocks_flatMap_bytesOfBlock rE.douts
  rw [← flatMap_bytesOfBlock_streamBlocks, ← hback]
  exact ⟨_, _, rE.douts.flatMap bytesOfBlock, processBytes_of_blocks hkey hidle hE, rfl,
    processBytes_of_blocks hkey uidle (hcut.symm ▸ hD), rfl⟩

/-- Settles O49: at most 16 bytes are at most two blocks, and 8 bytes have no padding. -/
theorem shortInputsRoundTrip : Obligations.ShortInputsRoundTrip := by
  intro key bytes s s' hkey _ hle idle idle'
  have short : (streamBlocks bytes).length ≤ 2 := by
    rw [streamBlocks, List.length_map, length_chunksOf]
    omega
  obtain ⟨r, r', cipher, hr, hcipher, hr', hback⟩ := processBytes_roundTrip hkey idle idle' short
  refine ⟨r, r', cipher, hr, hcipher, hr', hback, fun h8 => ?_⟩
  rw [hback, padStream, h8]
  simp

end Sys2Proof.Machine
end

section
/-! The fault entry of a whole command, its word's legality included: which rule raises which code (R232 to R238),
and that nothing but FAULT depends on FAULT (R245). -/

namespace Sys2Proof.Machine

/-! ### The fault a command takes -/

/-- `CommandFaults c s code`: command `c` takes the fault `code` in state `s`, an illegal word before any other
check (R237, R238). -/
inductive CommandFaults : Command → State → FaultCode → Prop where
  | illegal {c s e} (hd : decode c = .error e) : CommandFaults c s .ILLEGAL_CMD
  | instr {c s i code} (hd : decode c = .ok i) (hf : Faults i s code) : CommandFaults c s code

/-- A command that faults takes exactly the fault entry (R232). -/
theorem CommandFaults.issue_eq {c : Command} {s : State} {code : FaultCode} (hf : CommandFaults c s code) :
    issue c s = raise code s := by
  cases hf with
  | illegal hd => exact issue_of_decode_error hd s
  | instr hd hf => exact (issue_of_decode_ok hd s).trans hf.exec_eq

/-- A code that an instruction leaves where there was none is the code of a fault it took. -/
theorem Effect.faults {i : Instr} {s t : State} (he : Effect i s t) (noFault : s.FAULT = .NONE)
    (fault : t.FAULT ≠ .NONE) : Faults i s t.FAULT := by
  cases he with
  | faulted hf hr =>
    obtain ⟨-, rfl⟩ | ⟨later, -⟩ := raise_cases hr
    · exact hf
    · exact absurd noFault later
  | _ => exact absurd noFault fault

/-- A code that a command leaves where there was none is the code of a fault it took. -/
theorem commandFaults_of_issue {c : Command} {s t : State} (h : issue c s = .next t)
    (noFault : s.FAULT = .NONE) (fault : t.FAULT ≠ .NONE) : CommandFaults c s t.FAULT := by
  obtain ⟨i, hd, he⟩ | ⟨e, hd, hr⟩ := issue_cases h
  · exact .instr hd ((exec_effect he).faults noFault fault)
  · obtain ⟨-, rfl⟩ | ⟨later, -⟩ := raise_cases hr
    · exact .illegal hd
    · exact absurd noFault later

/-- From a state without a fault, a command that faults changes FAULT and nothing else (R232). -/
theorem CommandFaults.next_eq {c : Command} {s t : State} {code : FaultCode} (hf : CommandFaults c s code)
    (noFault : s.FAULT = .NONE) (h : issue c s = .next t) : t = { s with FAULT := code } :=
  Host.Outcome.next.inj (h.symm.trans (hf.issue_eq.trans (raise_first code s noFault)))

/-- From a state without a fault, a command leaves exactly the code of the fault it takes (R232). -/
theorem fault_eq_iff {c : Command} {s t : State} {code : FaultCode} (h : issue c s = .next t)
    (noFault : s.FAULT = .NONE) (hcode : code ≠ .NONE) : t.FAULT = code ↔ CommandFaults c s code := by
  constructor
  · rintro rfl
    exact commandFaults_of_issue h noFault hcode
  · intro hf
    rw [hf.next_eq noFault h]

/-! ### The rule of each code -/

/-- A word without an instruction is an illegal one (R65). -/
theorem decode_error_iff_not_legal {c : Command} : (∃ e, decode c = .error e) ↔ c.legal = false := by
  rw [decode_eq_error_iff, ← reservedWord_iff, Command.legal, Bool.and_eq_false_iff, beq_eq_false_iff_ne,
    decide_eq_false_iff_not, Nat.not_lt, cmdRsv, cmdOp]

/-- ILLEGAL_CMD (R237). -/
theorem commandFaults_illegalCmd_iff {c : Command} {s : State} :
    CommandFaults c s .ILLEGAL_CMD ↔ c.legal = false := by
  rw [← decode_error_iff_not_legal]
  constructor
  · rintro (⟨hd⟩ | ⟨-, hf⟩)
    · exact ⟨_, hd⟩
    · exact absurd rfl hf.code_ne_illegal
  · rintro ⟨e, hd⟩
    exact .illegal hd

/-- KEY_IN_USE (R236). -/
theorem commandFaults_keyInUse_iff {c : Command} {s : State} :
    CommandFaults c s .KEY_IN_USE ↔ (∃ k, decode c = .ok (.keysched k)) ∧ s.MODE ≠ .IDLE := by
  constructor
  · rintro (_ | ⟨hd, hf⟩)
    cases hf with
    | keysched k busy => exact ⟨⟨k, hd⟩, busy⟩
  · rintro ⟨⟨k, hd⟩, busy⟩
    exact .instr hd (.keysched k busy)

/-- NO_CHAIN (R235). -/
theorem commandFaults_noChain_iff {c : Command} {s : State} :
    CommandFaults c s .NO_CHAIN ↔ (∃ raw, decode c = .ok (.block raw)) ∧ s.MODE = .IDLE := by
  constructor
  · rintro (_ | ⟨hd, hf⟩)
    cases hf with
    | blockIdle raw idle => exact ⟨⟨raw, hd⟩, idle⟩
  · rintro ⟨⟨raw, hd⟩, idle⟩
    exact .instr hd (.blockIdle raw idle)

/-- NO_EK (R233). -/
theorem commandFaults_noEk_iff {c : Command} {s : State} :
    CommandFaults c s .NO_EK ↔ s.EKV = false ∧
      (decode c = .ok .revsched ∨ (∃ b, decode c = .ok (.xformE b)) ∨
        (∃ raw, decode c = .ok (.block raw)) ∧ s.MODE = .ENC) := by
  rw [s.EKV_eq_false_iff]
  constructor
  · rintro (_ | ⟨hd, hf⟩)
    cases hf with
    | revsched noEK => exact ⟨noEK, .inl hd⟩
    | xformE blk noEK => exact ⟨noEK, .inr (.inl ⟨blk, hd⟩)⟩
    | blockEnc raw mode noEK => exact ⟨noEK, .inr (.inr ⟨⟨raw, hd⟩, mode⟩)⟩
  · rintro ⟨noEK, hd | ⟨blk, hd⟩ | ⟨⟨raw, hd⟩, mode⟩⟩
    · exact .instr hd (.revsched noEK)
    · exact .instr hd (.xformE blk noEK)
    · exact .instr hd (.blockEnc raw mode noEK)

/-- NO_DK (R234). -/
theorem commandFaults_noDk_iff {c : Command} {s : State} :
    CommandFaults c s .NO_DK ↔ s.DKV = false ∧
      ((∃ b, decode c = .ok (.xformD b)) ∨ (∃ raw, decode c = .ok (.block raw)) ∧ s.MODE = .DEC) := by
  rw [s.DKV_eq_false_iff]
  constructor
  · rintro (_ | ⟨hd, hf⟩)
    cases hf with
    | xformD blk noDK => exact ⟨noDK, .inl ⟨blk, hd⟩⟩
    | blockDec raw mode noDK => exact ⟨noDK, .inr ⟨⟨raw, hd⟩, mode⟩⟩
  · rintro ⟨noDK, ⟨blk, hd⟩ | ⟨⟨raw, hd⟩, mode⟩⟩
    · exact .instr hd (.xformD blk noDK)
    · exact .instr hd (.blockDec raw mode noDK)

/-! ### Independence of the code already recorded -/

/-- Whether an instruction faults does not depend on the code recorded. -/
theorem Faults.withFault {i : Instr} {s : State} {code : FaultCode} (hf : Faults i s code) (f : FaultCode) :
    Faults i { s with FAULT := f } code := by
  cases hf <;> constructor <;> assumption

/-- Whether a command faults does not depend on the code recorded. -/
theorem CommandFaults.withFault {c : Command} {s : State} {code : FaultCode} (hf : CommandFaults c s code)
    (f : FaultCode) : CommandFaults c { s with FAULT := f } code := by
  cases hf with
  | illegal hd => exact .illegal hd
  | instr hd hf => exact .instr hd (hf.withFault f)

/-- A fault entry leaves the same state behind whatever code is recorded, but for the code. -/
theorem raise_withFault {code : FaultCode} {s t : State} (h : raise code s = .next t) (f : FaultCode) :
    ∃ g, raise code { s with FAULT := f } = .next { t with FAULT := g } := by
  obtain ⟨-, rfl⟩ := raise_frame h
  obtain ⟨u, hu⟩ := raise_completes code { s with FAULT := f }
  obtain ⟨g, rfl⟩ := raise_frame hu
  exact ⟨g, hu⟩

/-- An instruction leaves the same state behind whatever code is recorded, but for the code (R245). -/
theorem Effect.withFault {i : Instr} {s t : State} (he : Effect i s t) (f : FaultCode) :
    ∃ g, Effect i { s with FAULT := f } { t with FAULT := g } := by
  cases he with
  | nop => exact ⟨f, .nop _⟩
  | mul a b => exact ⟨f, .mul a b _⟩
  | addinv x => exact ⟨f, .addinv x _⟩
  | mulinv x => exact ⟨f, .mulinv x _⟩
  | keysched k idle => exact ⟨f, .keysched k (s := { s with FAULT := f }) idle⟩
  | revsched hek => exact ⟨f, .revsched (s := { s with FAULT := f }) hek⟩
  | xformE blk hek => exact ⟨f, .xformE blk (s := { s with FAULT := f }) hek⟩
  | xformD blk hdk => exact ⟨f, .xformD blk (s := { s with FAULT := f }) hdk⟩
  | startE => exact ⟨f, .startE _⟩
  | startD => exact ⟨f, .startD _⟩
  | endChain => exact ⟨f, .endChain _⟩
  | blockEnc raw mode hek => exact ⟨f, .blockEnc raw (s := { s with FAULT := f }) mode hek⟩
  | blockDec raw mode hdk => exact ⟨f, .blockDec raw (s := { s with FAULT := f }) mode hdk⟩
  | faulted hf hr =>
    obtain ⟨g, hg⟩ := raise_withFault hr f
    exact ⟨g, .faulted (hf.withFault f) hg⟩

/-- A command leaves the same state behind whatever code is recorded, but for the code (R245). -/
theorem issue_withFault {c : Command} {s t : State} (h : issue c s = .next t) (f : FaultCode) :
    ∃ g, issue c { s with FAULT := f } = .next { t with FAULT := g } := by
  obtain ⟨i, hd, he⟩ | ⟨e, hd, hr⟩ := issue_cases h
  · obtain ⟨g, hg⟩ := (exec_effect he).withFault f
    exact ⟨g, (issue_of_decode_ok hd _).trans hg.exec_eq⟩
  · obtain ⟨g, hg⟩ := raise_withFault hr f
    exact ⟨g, (issue_of_decode_error hd _).trans hg⟩

/-- Settles O12: a code left behind is that of the fault taken, each rule says when it is taken, and a fault taken
after another changes nothing. -/
theorem faultsAreRaisedAsTheTableSays : Obligations.FaultsAreRaisedAsTheTableSays := by
  constructor
  · intro c s t noFault h
    have leaves (code : FaultCode) (hcode : code ≠ .NONE) : t.FAULT = code ↔ CommandFaults c s code :=
      fault_eq_iff h noFault hcode
    exact ⟨(leaves .ILLEGAL_CMD nofun).trans commandFaults_illegalCmd_iff,
      (leaves .KEY_IN_USE nofun).trans commandFaults_keyInUse_iff,
      (leaves .NO_CHAIN nofun).trans commandFaults_noChain_iff,
      (leaves .NO_EK nofun).trans commandFaults_noEk_iff,
      (leaves .NO_DK nofun).trans commandFaults_noDk_iff,
      fun fault => (commandFaults_of_issue h noFault fault).next_eq noFault h⟩
  · intro c s t faulted h fault
    have hf : CommandFaults c s t.FAULT := (commandFaults_of_issue h rfl fault).withFault s.FAULT
    exact hf.issue_eq.trans (raise_later _ s faulted)

/-- Settles O13: the second state is the first with another code. -/
theorem commandsRunNormallyAfterAFault : Obligations.CommandsRunNormallyAfterAFault := by
  intro c s f f'
  obtain ⟨t, ht⟩ := issue_completes c { s with FAULT := f }
  obtain ⟨g, hg⟩ := issue_withFault ht f'
  exact ⟨t, { t with FAULT := g }, ht, hg, rfl⟩

end Sys2Proof.Machine
end

section
/-! The failures of PROCESS (R240 to R243): those found before any command, and a write that fails. -/

namespace Sys2Proof.Machine

/-! ### Before any command -/

theorem process_of_key_length_ne {key : List Byte} (hkey : key.length ≠ 16) (dir : Direction)
    (src : Option Source) (sink : Option Sink) (s : State) :
    process key dir src sink s = failAtOnce .InvalidKeyLength s :=
  if_pos hkey

theorem process_of_no_input {key : List Byte} (hkey : key.length = 16) (dir : Direction) (sink : Option Sink)
    (s : State) : process key dir none sink s = failAtOnce (.StreamOpenFailure .INPUT) s :=
  if_neg (not_not_intro hkey)

theorem process_of_no_output {key : List Byte} (hkey : key.length = 16) (dir : Direction) (src : Source)
    (s : State) : process key dir (some src) none s = failAtOnce (.StreamOpenFailure .OUTPUT) s :=
  if_neg (not_not_intro hkey)

theorem process_of_busy {key : List Byte} (hkey : key.length = 16) (dir : Direction) (src : Source) (sink : Sink)
    {s : State} (busy : s.MODE ≠ .IDLE) :
    process key dir (some src) (some sink) s = failAtOnce .CoreBusy s :=
  (if_neg (not_not_intro hkey)).trans (if_pos busy)

/-- Settles O44: the checks in the order of R210. -/
theorem processFailsBeforeAnyCommand : Obligations.ProcessFailsBeforeAnyCommand := fun _ dir s =>
  ⟨fun hkey src sink => process_of_key_length_ne hkey dir src sink s,
    fun hkey => ⟨fun sink => process_of_no_input hkey dir sink s, fun src => process_of_no_output hkey dir src s,
      fun busy src sink => process_of_busy hkey dir src sink busy⟩⟩

/-! ### A write that fails -/

/-- With room for `n` blocks, the loop over more full chunks than that ends with WriteFailure (R242). -/
theorem processLoop_writeFailure {chunks : List (List Byte)} (full : ∀ chunk ∈ chunks, chunk.length = 8)
    {n : Nat} (hn : n < chunks.length) (out : List Byte) (s : State) :
    ∃ r, processLoop chunks (some n) out s = .next r ∧ r.result = .failure .WriteFailure := by
  induction chunks generalizing n out s with
  | nil => exact absurd hn (Nat.not_lt_zero n)
  | cons chunk chunks ih =>
    obtain ⟨hchunk, hrest⟩ := List.forall_mem_cons.mp full
    obtain ⟨t, ht⟩ := issue_completes (encode (.block (blockOfBytes chunk))) s
    rw [processLoop_full hchunk, issueInstr, ht, andThen_next]
    cases n with
    | zero => exact ⟨_, finishWith_eq .., rfl⟩
    | succ n =>
      rw [if_neg (by simp)]
      exact ih hrest (Nat.lt_of_succ_lt_succ hn) _ t

/-- The write of block `n` fails when the sink has room for the `n` blocks before it alone (R242). -/
theorem process_writeFailure {key : List Byte} {s : State} (hkey : key.length = 16) (idle : s.MODE = .IDLE)
    (dir : Direction) {bytes : List Byte} {n : Nat} (hn : n < (streamBlocks bytes).length) :
    ∃ r, process key dir (some (.ofBytes bytes)) (some { room := some n }) s = .next r ∧
      r.result = .failure .WriteFailure := by
  rw [streamBlocks_eq_map_chunksOf_padStream, List.length_map] at hn
  rw [process_of_idle hkey idle, Source.ofBytes, processLoop_padStream]
  exact processLoop_writeFailure (fun _ => length_of_mem_chunksOf_padStream) hn _ _

/-- Settles O45: the loop ends with WriteFailure, and END leaves the core as after every PROCESS. -/
theorem writeFailureEndsTheOperation : Obligations.WriteFailureEndsTheOperation := by
  intro key dir s bytes n hkey idle hn
  obtain ⟨r, hr, hresult⟩ := process_writeFailure hkey idle dir hn
  obtain ⟨hends, -⟩ := processRaisesNoFault key dir s hkey idle
  obtain ⟨r', hr', hFAULT, hMODE, hFA, hFB, -⟩ := hends (.ofBytes bytes) { room := some n }
  obtain rfl := Host.Outcome.next.inj (hr.symm.trans hr')
  exact ⟨r, hr, hresult, hMODE, hFA, hFB, hFAULT⟩

end Sys2Proof.Machine
end

section
/-! Every command completes (R275), and what reset alone can do (R260): clear a fault code and give up EK. -/

namespace Sys2Proof.Machine

/-! ### Completion -/

/-- Every step completes, whether it waits, issues a command or resets (R275). -/
theorem step_completes (s : State) : ∃ t, step s = .next t := by
  cases hp : s.pending with
  | nil => exact ⟨s, step_of_nothing_pending hp⟩
  | cons e rest =>
    cases e with
    | command c => rw [step_of_command hp]; exact issue_completes c _
    | reset => exact ⟨_, step_of_pending hp⟩

/-- Settles O6: completion of steps, instructions and command words. -/
theorem everyStepCompletes : Obligations.EveryStepCompletes :=
  ⟨step_completes, exec_completes, issue_completes⟩

/-! ### A fault code stays -/

/-- An instruction keeps a fault code already recorded: only a fault entry writes FAULT, and it finds a code
there (R232). -/
theorem Effect.keeps_fault {i : Instr} {s t : State} (he : Effect i s t) (fault : s.FAULT ≠ .NONE) :
    t.FAULT = s.FAULT := by
  cases he with
  | faulted _ hr => rw [Host.Outcome.next.inj (hr.symm.trans (raise_later _ s fault))]
  | _ => rfl

/-- A command keeps a fault code already recorded, whether its word is legal or not. -/
theorem issue_keeps_fault {c : Command} {s t : State} (h : issue c s = .next t) (fault : s.FAULT ≠ .NONE) :
    t.FAULT = s.FAULT := by
  obtain ⟨i, -, he⟩ | ⟨e, -, hr⟩ := issue_cases h
  · exact (exec_effect he).keeps_fault fault
  · rw [Host.Outcome.next.inj (hr.symm.trans (raise_later _ s fault))]

/-! ### EK stays present -/

/-- An instruction keeps EK present: KEYSCHED alone writes it, and writes a schedule (R24, R124). -/
theorem Effect.keeps_EKV {i : Instr} {s t : State} (he : Effect i s t) (present : s.EKV = true) :
    t.EKV = true := by
  cases he with
  | keysched => rfl
  | faulted _ hr =>
    obtain ⟨f, rfl⟩ := raise_frame hr
    exact present
  | _ => exact present

/-- A command keeps EK present, whether its word is legal or not. -/
theorem issue_keeps_EKV {c : Command} {s t : State} (h : issue c s = .next t) (present : s.EKV = true) :
    t.EKV = true := by
  obtain ⟨i, -, he⟩ | ⟨e, -, hr⟩ := issue_cases h
  · exact (exec_effect he).keeps_EKV present
  · obtain ⟨f, rfl⟩ := raise_frame hr
    exact present

/-- Settles O9: the reset input sets the reset values, and a command keeps a fault code and the presence of EK. -/
theorem onlyResetClearsFaultAndEkv : Obligations.OnlyResetClearsFaultAndEkv :=
  ⟨fun _ _ => step_of_pending, fun _ _ _ h => ⟨issue_keeps_fault h, issue_keeps_EKV h⟩⟩

end Sys2Proof.Machine
end
